-- ==== Sys2Proof/Word.lean ====
section
/-! DEFINITION. The word types of the FPCE (spec/00_scope.md R7 to R9). Bit 0 is the least significant bit (R9).
A register address of the sensor's space (R24) is only ever compared and counted, so it is a natural number. -/

namespace Sys2Proof

/-- One byte of the RegisterBuffer (R15). -/
abbrev Byte := BitVec 8

/-- A command word, `CMD[15:0]` (R38; `CMD_WIDTH` of R7). -/
abbrev CmdWord := BitVec 16

/-- An index on the register read port (R22). -/
abbrev RegIndex := BitVec 8

/-- A word of the register read port (R22; `W_READ` of R7). -/
abbrev PortWord := BitVec 128

end Sys2Proof
end

