-- ==== Sys2Proof/Config.lean ====
section
/-! DEFINITION. What an instance of the FPCE fixes (the parameters of spec/00_scope.md R7) and the free values, which
nothing fixes (spec/93_implementation_defined.md U1, U6). Parameters are no state (R13). The defaults stand in
Sys2Proof/Machine/Params.lean. -/

namespace Sys2Proof

/-- `TVAR1_FORM` (R7, R53): where the first temperature term is shifted. -/
inductive TVar1Form where
  /-- the printed line: `d1 * (dig_t2 >> 11)` -/
  | literal
  /-- multiply first: `(d1 * dig_t2) >> 11` -/
  | reference
  deriving DecidableEq, Repr

/-- `ADDR_MAP` (R27): the register address of the first byte of every field, under the names of the rule's table. -/
structure AddrMap where
  aT1 : Nat
  aT2 : Nat
  aT3 : Nat
  aP1 : Nat
  aP2 : Nat
  aP3 : Nat
  aP4 : Nat
  aP5 : Nat
  aP6 : Nat
  aP7 : Nat
  aP8 : Nat
  aP9 : Nat
  aH1 : Nat
  aH2 : Nat
  aH3 : Nat
  aH45 : Nat
  aH6 : Nat
  aPress : Nat
  aTemp : Nat
  aHum : Nat
  deriving DecidableEq, Repr

/-- An expression over named integers, in the operators of R10 other than division: no choice (R68) and no division can
be written in it. `square` is a product. Its value is `IntExpr.eval` in `Machine/Formulas.lean`. -/
inductive IntExpr (V : Type) where
  | var (v : V)
  | const (c : Int)
  | add (a b : IntExpr V)
  | sub (a b : IntExpr V)
  | mul (a b : IntExpr V)
  /-- `a << n` -/
  | shl (a : IntExpr V) (n : Nat)
  /-- `a >> n` -/
  | asr (a : IntExpr V) (n : Nat)
  /-- `a & b` -/
  | band (a b : IntExpr V)
  /-- `a | b` -/
  | bor (a b : IntExpr V)
  deriving DecidableEq, Repr

/-- What the divisor stage of the pressure formula may read: "`t_fine` and constants only" (R55). -/
inductive DivisorInput where
  | tFine | p1 | p2 | p3 | p4 | p5 | p6
  deriving DecidableEq, Repr

/-- The arguments of the stage after the guard (R55). -/
inductive RefineInput where
  | adcP | var1 | var2 | p7 | p8 | p9
  deriving DecidableEq, Repr

/-- What the refinement may read: the quotient of the one division, and the stage's arguments. -/
inductive QuotientInput where
  | quotient
  | input (i : RefineInput)
  deriving DecidableEq, Repr

/-- `PRESS_BODY` (R7), of the shape R55 asks of every one a model admits: a divisor stage, one division by `var1`, which
truncates (`DIV_MODE`), and a refinement stage. No expression can divide, so there is no second division and no other
rounding of it; that the quotient and `dig_p7 .. dig_p9` are used is `PressBody.wellFormed` (log 18). -/
structure PressBody where
  /-- the candidate divisor -/
  var1 : IntExpr DivisorInput
  /-- what else the divisor stage hands on -/
  var2 : IntExpr DivisorInput
  /-- what is divided by `var1` -/
  dividend : IntExpr RefineInput
  /-- the pressure, from the quotient -/
  refinement : IntExpr QuotientInput
  deriving DecidableEq, Repr

/-- What the first stage of the humidity formula may read: all but `dig_h1` (R60). -/
inductive HumInput where
  | adcH | tFine | h2 | h3 | h4 | h5 | h6
  deriving DecidableEq, Repr

/-- What the correction term may read: the first stage's value, `dig_h1`, and the first stage's inputs, which R60 does not
exclude. -/
inductive CorrectionInput where
  | x
  | h1
  | input (i : HumInput)
  deriving DecidableEq, Repr

/-- `HUM_BODY` (R7), of the two stages R60 asks of every one: a value that cannot read `dig_h1`, and a correction term; the
unclamped intermediate is the first less the second. No expression can divide (R74) or choose (R68). That the first stage
uses all its inputs and the correction `dig_h1` is `HumBody.wellFormed` (log 18). -/
structure HumBody where
  /-- the first stage, `x` -/
  first : IntExpr HumInput
  /-- the correction term, taken from `x` -/
  corr : IntExpr CorrectionInput
  deriving DecidableEq, Repr

/-- The parameters of R7. The fixed rows of R7 are constants of the definitions that use them. -/
structure Config where
  /-- `RB_BASE` -/
  rbBase : Nat
  /-- `ADDR_MAP` -/
  addrMap : AddrMap
  /-- `TVAR1_FORM` -/
  tVar1Form : TVar1Form
  /-- `PRESS_BODY` -/
  pressBody : PressBody
  /-- `HUM_BODY` -/
  humBody : HumBody
  deriving DecidableEq, Repr

/-- FREE VALUE (U1, R22; log 9): the word the read port gives for a register whose valid flag is 0, at the n-th such
read. It has no body: nothing can be proved of its value. -/
opaque Config.freePortWord : Nat → PortWord

/-- FREE VALUE (U6, R15; log 8): the byte of `RB` at an address that no load has filled. No run reaches a read of it,
since every reader of `RB` checks `RB_VALID` first. -/
opaque Config.freeByte : Nat → Byte

end Sys2Proof
end

