-- ==== Sys2Proof/Machine/State.lean ====
section
/-! DEFINITION. The state of the FPCE (spec/10_state.md R13), its reset value (spec/70_reset_and_hazards.md R87), and the
types a step answers with. -/

namespace Sys2Proof.Machine

/-- The 18 constants of the CalibrationSet, each a bit pattern of the width R16 gives; whether it is read as signed or
unsigned is said where it is read (`Machine/Operands.lean`). -/
structure CalibrationSet where
  digT1 : BitVec 16
  digT2 : BitVec 16
  digT3 : BitVec 16
  digP1 : BitVec 16
  digP2 : BitVec 16
  digP3 : BitVec 16
  digP4 : BitVec 16
  digP5 : BitVec 16
  digP6 : BitVec 16
  digP7 : BitVec 16
  digP8 : BitVec 16
  digP9 : BitVec 16
  digH1 : BitVec 8
  digH2 : BitVec 16
  digH3 : BitVec 8
  digH4 : BitVec 12
  digH5 : BitVec 12
  digH6 : BitVec 8
  deriving DecidableEq, Repr

/-- The three raw readings of one bulk read (R17). -/
structure RawSample where
  adcT : BitVec 20
  adcP : BitVec 20
  adcH : BitVec 16
  deriving DecidableEq, Repr

/-- The one-bit fields of `STATUS` (R21). -/
inductive Flag where
  | rbValid
  | calValid
  | rawValid
  | tfValid
  | tValid
  | pValid
  | hValid
  | resValid
  | pUndef
  | hClampLo
  | hClampHi
  deriving DecidableEq, Repr

/-- The fault codes of R70. Taking one is a NEXT state (R76), not a stop of the machine. -/
inductive FaultCode where
  /-- 1: a word that matches no row of the opcode map -/
  | illegalCmd
  /-- 2: `RB_VALID = 0` -/
  | bufferInvalid
  /-- 3: the operand's two bytes do not lie in the buffer -/
  | addrRange
  /-- 4: a second LDCAL in one session -/
  | calLocked
  /-- 5: `CAL_VALID = 0` -/
  | noCal
  /-- 6: `RAW_VALID = 0` -/
  | noRaw
  /-- 7: `TF_VALID = 0` -/
  | noTFine
  deriving DecidableEq, Repr

/-- The response of one command (R39). -/
inductive Response where
  | ok
  | fault (code : FaultCode)
  deriving DecidableEq, Repr

/-- What a host action gives back: a command's response (R39) or a word of the read port (R22). -/
inductive Output where
  | response (r : Response)
  | data (w : PortWord)
  deriving DecidableEq, Repr

/-- The moves the host has (R90), one at a time and never during a command (R35, R91). -/
inductive HostAction where
  /-- `@RESET` (R86) -/
  | reset
  /-- `@LOAD bytes` (R26) -/
  | load (bytes : List Byte)
  /-- a command word on the command port (R14, R38) -/
  | command (w : CmdWord)
  /-- `@READ`, `RegRead(idx)` (R22) -/
  | read (idx : RegIndex)
  deriving DecidableEq, Repr

/-- The registers of the read port (R22), under the spec's names. -/
inductive Reg where
  | status | res | temp | press | hum | tFine
  | adcT | adcP | adcH
  | digT1 | digT2 | digT3
  | digP1 | digP2 | digP3 | digP4 | digP5 | digP6 | digP7 | digP8 | digP9
  | digH1 | digH2 | digH3 | digH4 | digH5 | digH6
  deriving DecidableEq, Repr

/-- The contents of `RB` (R15, R24): the bytes a load has filled, by register address, addresses strictly rising
(`Memory.wf`). An unlisted address has no value (log 8), so no entry can equal what an unlisted address reads as. -/
abbrev Memory := List Host.Cell

/-- The whole state (R13). All flags and `ERR` are fields of `status` (R21); their places are in `Machine/Flags.lean`.
The last three fields are the model's own (log 5, log 6, log 9). -/
structure State where
  /-- `RB` (R15) -/
  rb : Memory
  /-- `STATUS` (R21) -/
  status : BitVec 16
  /-- `DIG_*` (R16) -/
  cal : CalibrationSet
  /-- `ADC_*` (R17) -/
  raw : RawSample
  /-- `T_FINE`, signed (R18) -/
  tFine : BitVec 32
  /-- `TEMP`, signed (R19) -/
  temp : BitVec 32
  /-- `PRESS`, signed (R19) -/
  press : BitVec 128
  /-- `HUM`, unsigned (R19) -/
  hum : BitVec 32
  /-- `RES`, signed (R20) -/
  res : BitVec 32
  /-- the host actions not yet taken, the next one first -/
  actions : List HostAction
  /-- the output of the last action that had one -/
  output : Option Output
  /-- how many free values reads have drawn -/
  draws : Nat
  deriving DecidableEq, Repr

/-- What stops the machine: nothing. R69 names every abnormal situation, and each is absorbed or a fault the machine
answers and goes on from (R76, R77), a NEXT state here; so the type has no constructor and nobody raises it. Safe. -/
inductive Fault
  deriving DecidableEq, Repr

/-- An instruction without a meaning. -/
inductive Refusal where
  /-- the instruction has no meaning in this model yet; raised by an arm of `exec` alone, and by none at present. Safe. -/
  | notModelled (mnemonic : String)
  deriving DecidableEq, Repr

/-- The data registers at reset. The spec gives them no value (R87); the model names zero (log 7). -/
def CalibrationSet.reset : CalibrationSet :=
  ⟨0, 0, 0, 0, 0, 0, 0, 0, 0, 0, 0, 0, 0, 0, 0, 0, 0, 0⟩

/-- The raw registers at reset (log 7). -/
def RawSample.reset : RawSample := ⟨0, 0, 0⟩

/-- The state right after reset (R87): `STATUS` is 0 and nothing is in `RB`; no host action is pending (log 5). -/
def State.reset : State where
  rb := []
  status := 0
  cal := CalibrationSet.reset
  raw := RawSample.reset
  tFine := 0
  temp := 0
  press := 0
  hum := 0
  res := 0
  actions := []
  output := none
  draws := 0

end Sys2Proof.Machine
end

