-- ==== Sys2Proof/Machine/Flags.lean ====
section
/-! DEFINITION. The layout of `STATUS` (spec/10_state.md R21) and the codes of spec/60_exceptions.md R70. Every read and
write of a flag or of `ERR` goes through these operations. -/

namespace Sys2Proof.Machine

/-- The bit of `STATUS` that holds a flag (R21, column "bits"). -/
def Flag.bit : Flag → Nat
  | .rbValid => 0
  | .calValid => 1
  | .rawValid => 2
  | .tfValid => 3
  | .tValid => 4
  | .pValid => 5
  | .hValid => 6
  | .resValid => 7
  | .pUndef => 8
  | .hClampLo => 9
  | .hClampHi => 10

/-- One flag of a status word. -/
def getFlag (st : BitVec 16) (f : Flag) : Bool := st.getLsbD f.bit

/-- A status word with one flag written and every other bit kept. -/
def putFlag (st : BitVec 16) (f : Flag) (b : Bool) : BitVec 16 :=
  if b then st ||| BitVec.twoPow 16 f.bit else st &&& ~~~ BitVec.twoPow 16 f.bit

/-- `ERR`, bits 15:12 of a status word (R21). -/
def getErr (st : BitVec 16) : BitVec 4 := st.extractLsb' 12 4

/-- A status word with `ERR` written and bits 11:0 kept. -/
def putErr (st : BitVec 16) (c : BitVec 4) : BitVec 16 := c ++ (st.extractLsb' 0 12 : BitVec 12)

/-- Bit 11 of a status word, which R21 reserves: it "reads 0". -/
def getReserved (st : BitVec 16) : Bool := st.getLsbD 11

/-- A flag of the state. -/
def State.flag (s : State) (f : Flag) : Bool := getFlag s.status f

/-- The state with one flag written. -/
def State.setFlag (s : State) (f : Flag) (b : Bool) : State := { s with status := putFlag s.status f b }

/-- `STATUS.ERR` (R21). -/
def State.err (s : State) : BitVec 4 := getErr s.status

/-- The state with `STATUS.ERR` written. -/
def State.setErr (s : State) (c : BitVec 4) : State := { s with status := putErr s.status c }

/-- The number of a fault code (R70). -/
def FaultCode.code : FaultCode → BitVec 4
  | .illegalCmd => 1
  | .bufferInvalid => 2
  | .addrRange => 3
  | .calLocked => 4
  | .noCal => 5
  | .noRaw => 6
  | .noTFine => 7

/-- `CODE` of a response (R39): 0 for OK. -/
def Response.code : Response → BitVec 4
  | .ok => 0
  | .fault c => c.code

/-- A response as an 8-bit word: "bit 7 is 1 for FAULT and 0 for OK, bits 6:4 are 0, bits 3:0 are `CODE`" (R39). -/
def Response.word : Response → BitVec 8
  | .ok => 0x00
  | .fault c => (0x8 : BitVec 4) ++ c.code

end Sys2Proof.Machine
end

