-- ==== Sys2Proof/Machine/Ops.lean ====
section
/-! DEFINITION. The shared operations: the RegisterBuffer, responses, taking a fault, and the three stages of a command
(spec/20_memory.md R24 to R26; spec/30_encoding.md R39, R45; spec/60_exceptions.md R71, R76). There is no return from a
fault: "There is no return instruction" (R77). -/

namespace Sys2Proof.Machine

/-- The canonical form of the memory: addresses strictly rising. An unlisted address has no value, so no entry can equal
what it reads as (log 8). -/
abbrev Memory.wf (m : Memory) : Prop := (m.map Prod.fst).Pairwise (· < ·)

/-- The byte held at an address, if a load has filled it. -/
def Memory.read : Memory → Nat → Option Byte
  | [], _ => none
  | (b, x) :: rest, a => if a = b then some x else Memory.read rest a

/-- The memory that holds a sequence of bytes from an address on (R26). It is the one way memory is written (R25). -/
def Memory.ofBytes : Nat → List Byte → Memory
  | _, [] => []
  | a, x :: rest => (a, x) :: Memory.ofBytes (a + 1) rest

/-- Give an output. -/
def State.answer (s : State) (o : Output) : State := { s with output := some o }

/-- Taking a fault, `raise Fault(code)` (R76): "if STATUS.ERR = 0: STATUS.ERR <- code", and the response carries the
code. Nothing else changes. -/
def raiseFault (c : FaultCode) (s : State) : State :=
  (if s.err = 0 then s.setErr c.code else s).answer (.response (.fault c))

/-- The code of the first check of a list that does not hold (R71: "the first failing check in this fixed order"). -/
def firstFailing : List (Bool × FaultCode) → Option FaultCode
  | [] => none
  | (holds, c) :: rest => if holds then firstFailing rest else some c

/-- A decoded command (R45, stages 2 and 3): the checks in their order, the first failing one faulting; else the whole
effect and the response OK. -/
def runCommand (checks : List (Bool × FaultCode)) (effect : State → State) (s : State) :
    Host.Outcome State Fault Refusal :=
  match firstFailing checks with
  | some c => .next (raiseFault c s)
  | none => .next ((effect s).answer (.response .ok))

end Sys2Proof.Machine
end

