-- ==== Sys2Proof/Machine/Arith.lean ====
section
/-! DEFINITION. The operators of the spec's pseudocode on mathematical integers (spec/00_scope.md R8, R10, R11). Nothing
here wraps or saturates. -/

namespace Sys2Proof.Machine

/-- `a << n = a * 2^n`, exact, also for a negative `a` (R10). The power stands first, so that a symbolic `a` is never
unfolded `2^n` times. -/
def shl (a : Int) (n : Nat) : Int := 2 ^ n * a

/-- `a >> n = floor(a / 2^n)` (R10). The divisor is positive, where Lean's `/` on integers rounds toward minus
infinity. -/
def asr (a : Int) (n : Nat) : Int := a / 2 ^ n

/-- `sq(a) = a * a` (R10). -/
def square (a : Int) : Int := a * a

/-- `tdiv(a, b)`, rounded toward zero (R10; `DIV_MODE = TRUNC` of R7). The spec gives it for `b != 0` only and uses it
only there (R59). -/
def tdiv (a b : Int) : Int := Int.tdiv a b

/-- `sext_N(v)`: an `n`-bit pattern, given as the unsigned number `v`, read in two's complement (R11). -/
def sext (n v : Nat) : Int := if v < 2 ^ (n - 1) then (v : Int) else (v : Int) - 2 ^ n

end Sys2Proof.Machine
end

