-- ==== Sys2Proof/Machine/Formulas.lean ====
section
/-! DEFINITION. The pure functions of the compensation engine on mathematical integers (spec/41_compensation.md R53, R55,
R57 to R60, R62, R63). Every intermediate the rules name has a definition of its own, so that the interval table of R66
can be stated about it. -/

namespace Sys2Proof

open Sys2Proof.Machine

/-- The value of an expression (R10). `&` and `|` are two's complement on negative values too, where R10 has no use of them
(log 18). -/
def IntExpr.eval {V : Type} (env : V → Int) : IntExpr V → Int
  | .var v => env v
  | .const c => c
  | .add a b => a.eval env + b.eval env
  | .sub a b => a.eval env - b.eval env
  | .mul a b => a.eval env * b.eval env
  | .shl a n => Machine.shl (a.eval env) n
  | .asr a n => Machine.asr (a.eval env) n
  | .band a b => Int.land (a.eval env) (b.eval env)
  | .bor a b => Int.lor (a.eval env) (b.eval env)

/-- The values the divisor stage reads. -/
def DivisorInput.value (tFine p1 p2 p3 p4 p5 p6 : Int) : DivisorInput → Int
  | .tFine => tFine
  | .p1 => p1
  | .p2 => p2
  | .p3 => p3
  | .p4 => p4
  | .p5 => p5
  | .p6 => p6

/-- The values the stage after the guard reads. -/
def RefineInput.value (adcP var1 var2 p7 p8 p9 : Int) : RefineInput → Int
  | .adcP => adcP
  | .var1 => var1
  | .var2 => var2
  | .p7 => p7
  | .p8 => p8
  | .p9 => p9

/-- The values the refinement reads, `q` being the quotient. -/
def QuotientInput.value (q : Int) (args : RefineInput → Int) : QuotientInput → Int
  | .quotient => q
  | .input i => args i

/-- `PRESS_BODY.divisor(t_fine, dig_p1 .. dig_p6)`, answering `(var1, var2)` (R55). -/
def PressBody.divisor (b : PressBody) (tFine p1 p2 p3 p4 p5 p6 : Int) : Int × Int :=
  let args := DivisorInput.value tFine p1 p2 p3 p4 p5 p6
  (b.var1.eval args, b.var2.eval args)

/-- `PRESS_BODY.refine(adc_p, var1, var2, dig_p7 .. dig_p9)`, evaluated only where `var1 != 0` (R55): one truncating
division by `var1`, then the refinement. -/
def PressBody.refine (b : PressBody) (adcP var1 var2 p7 p8 p9 : Int) : Int :=
  let args := RefineInput.value adcP var1 var2 p7 p8 p9
  b.refinement.eval (QuotientInput.value (tdiv (b.dividend.eval args) var1) args)

/-- The values the first stage of the humidity formula reads. -/
def HumInput.value (adcH tFine h2 h3 h4 h5 h6 : Int) : HumInput → Int
  | .adcH => adcH
  | .tFine => tFine
  | .h2 => h2
  | .h3 => h3
  | .h4 => h4
  | .h5 => h5
  | .h6 => h6

/-- The values the correction term reads. -/
def CorrectionInput.value (x h1 : Int) (args : HumInput → Int) : CorrectionInput → Int
  | .x => x
  | .h1 => h1
  | .input i => args i

/-- The first stage of a `HUM_BODY` (R60). -/
def HumBody.firstStage (b : HumBody) (adcH tFine h2 h3 h4 h5 h6 : Int) : Int :=
  b.first.eval (HumInput.value adcH tFine h2 h3 h4 h5 h6)

/-- The correction term of a `HUM_BODY` (R60), `x` being the first stage's value. -/
def HumBody.correction (b : HumBody) (x h1 adcH tFine h2 h3 h4 h5 h6 : Int) : Int :=
  b.corr.eval (CorrectionInput.value x h1 (HumInput.value adcH tFine h2 h3 h4 h5 h6))

end Sys2Proof

namespace Sys2Proof.Machine

/-! ### Temperature (R53) -/

/-- `d1 = (adc_t >> 3) - (dig_t1 << 1)` -/
def tempD1 (adcT t1 : Int) : Int := asr adcT 3 - shl t1 1

/-- `var1`, in the form `TVAR1_FORM` selects -/
def tempVar1 (form : TVar1Form) (d1 t2 : Int) : Int :=
  match form with
  | .literal => d1 * asr t2 11
  | .reference => asr (d1 * t2) 11

/-- `e = (adc_t >> 4) - dig_t1` -/
def tempE (adcT t1 : Int) : Int := asr adcT 4 - t1

/-- `var2 = ((sq(e) >> 12) * dig_t3) >> 14` -/
def tempVar2 (e t3 : Int) : Int := asr (asr (square e) 12 * t3) 14

/-- `t_fine = var1 + var2` -/
def tempTFine (form : TVar1Form) (adcT t1 t2 t3 : Int) : Int :=
  tempVar1 form (tempD1 adcT t1) t2 + tempVar2 (tempE adcT t1) t3

/-- `temp = ((t_fine * 5) + 128) >> 8` -/
def tempCentiDegrees (tFine : Int) : Int := asr (tFine * 5 + 128) 8

/-- `CompT(adc_t, dig_t1, dig_t2, dig_t3)`, answering `(temp, t_fine)` (R53). -/
def compT (form : TVar1Form) (adcT t1 t2 t3 : Int) : Int × Int :=
  let tFine := tempTFine form adcT t1 t2 t3
  (tempCentiDegrees tFine, tFine)

/-! ### Pressure (R55, R57 to R59) -/

/-- `CompP(adc_p, t_fine, dig_p1 .. dig_p9)`, answering `(press, undef)`: the shape R55 fixes, with the guard of R58. -/
def compP (body : PressBody) (adcP tFine p1 p2 p3 p4 p5 p6 p7 p8 p9 : Int) : Int × Bool :=
  let v := body.divisor tFine p1 p2 p3 p4 p5 p6
  if v.1 = 0 then (0, true) else (body.refine adcP v.1 v.2 p7 p8 p9, false)

/-- `a = t_fine - 128000` (R57) -/
def pressA (tFine : Int) : Int := tFine - 128000

/-- `var2`, after its three lines (R57) -/
def pressVar2 (a p4 p5 p6 : Int) : Int := square a * p6 + shl (a * p5) 17 + shl p4 35

/-- `c = ((sq(a) * dig_p3) >> 8) + ((a * dig_p2) << 12)` (R57) -/
def pressC (a p2 p3 : Int) : Int := asr (square a * p3) 8 + shl (a * p2) 12

/-- `((1 << 47) + c) * dig_p1` (R57) -/
def pressProduct (c p1 : Int) : Int := (shl 1 47 + c) * p1

/-- `var1`, the candidate divisor (R57) -/
def pressVar1 (tFine p1 p2 p3 : Int) : Int := asr (pressProduct (pressC (pressA tFine) p2 p3) p1) 33

/-- `p0 = 1048576 - adc_p` (R59) -/
def pressP0 (adcP : Int) : Int := 1048576 - adcP

/-- `num = ((p0 << 31) - var2) * 3125` (R59) -/
def pressNum (adcP var2 : Int) : Int := (shl (pressP0 adcP) 31 - var2) * 3125

/-- `w1 = (dig_p9 * sq(q >> 13)) >> 25` (R59) -/
def pressW1 (q p9 : Int) : Int := asr (p9 * square (asr q 13)) 25

/-- `w2 = (dig_p8 * q) >> 19` (R59) -/
def pressW2 (q p8 : Int) : Int := asr (p8 * q) 19

/-- `p = ((q + w1 + w2) >> 8) + (dig_p7 << 4)` (R59) -/
def pressFinish (q p7 p8 p9 : Int) : Int := asr (q + pressW1 q p9 + pressW2 q p8) 8 + shl p7 4

/-! The same lines as expressions; `Laws/Formulas.lean` shows that their values are the functions above. -/

/-- `a` (R57) -/
def exprA : IntExpr DivisorInput := .sub (.var .tFine) (.const 128000)

/-- `sq(a)` (R57) -/
def exprSqA : IntExpr DivisorInput := .mul exprA exprA

/-- `c` (R57) -/
def exprC : IntExpr DivisorInput :=
  .add (.asr (.mul exprSqA (.var .p3)) 8) (.shl (.mul exprA (.var .p2)) 12)

/-- `q` (R59), the quotient of the single division -/
def exprQ : IntExpr QuotientInput := .var .quotient

/-- `q >> 13` (R59) -/
def exprQ13 : IntExpr QuotientInput := .asr exprQ 13

/-- `w1`, the first refinement pass (R59) -/
def exprW1 : IntExpr QuotientInput := .asr (.mul (.var (.input .p9)) (.mul exprQ13 exprQ13)) 25

/-- `w2`, the second refinement pass (R59) -/
def exprW2 : IntExpr QuotientInput := .asr (.mul (.var (.input .p8)) exprQ) 19

/-- The default `PRESS_BODY` (R57, R59). -/
def defaultPressBody : PressBody where
  var1 := .asr (.mul (.add (.shl (.const 1) 47) exprC) (.var .p1)) 33
  var2 := .add (.add (.mul exprSqA (.var .p6)) (.shl (.mul exprA (.var .p5)) 17)) (.shl (.var .p4) 35)
  dividend := .mul (.sub (.shl (.sub (.const 1048576) (.var .adcP)) 31) (.var .var2)) (.const 3125)
  refinement := .add (.asr (.add (.add exprQ exprW1) exprW2) 8) (.shl (.var (.input .p7)) 4)

/-! ### Humidity (R60, R62, R63) -/

/-- `0x19000000`, the upper bound of the clamp (R63) -/
def humMax : Int := 0x19000000

/-- `clamp(y)`, answering the clamped value, `lo` and `hi` (R63). -/
def humClamp (y : Int) : Int × Bool × Bool :=
  if y < 0 then (0, true, false)
  else if humMax < y then (humMax, false, true)
  else (y, false, false)

/-- `y`, the unclamped `v_x1_u32r` (R60) -/
def humUnclamped (body : HumBody) (adcH tFine h1 h2 h3 h4 h5 h6 : Int) : Int :=
  let x := body.firstStage adcH tFine h2 h3 h4 h5 h6
  x - body.correction x h1 adcH tFine h2 h3 h4 h5 h6

/-- `CompH(adc_h, t_fine, dig_h1 .. dig_h6)`, answering `(hum, lo, hi)` (R60, R63). -/
def compH (body : HumBody) (adcH tFine h1 h2 h3 h4 h5 h6 : Int) : Int × Bool × Bool :=
  let r := humClamp (humUnclamped body adcH tFine h1 h2 h3 h4 h5 h6)
  (asr r.1 12, r.2.1, r.2.2)

/-- `v = t_fine - 76800` (R62) -/
def humV (tFine : Int) : Int := tFine - 76800

/-- `A` (R62) -/
def humA (adcH v h4 h5 : Int) : Int := asr (shl adcH 14 - shl h4 20 - h5 * v + 16384) 15

/-- `m1 = (v * dig_h6) >> 10` (R62) -/
def humM1 (v h6 : Int) : Int := asr (v * h6) 10

/-- `m2 = ((v * dig_h3) >> 11) + 32768` (R62) -/
def humM2 (v h3 : Int) : Int := asr (v * h3) 11 + 32768

/-- `m4 = ((m1 * m2) >> 10) + 2097152` (R62) -/
def humM4 (m1 m2 : Int) : Int := asr (m1 * m2) 10 + 2097152

/-- `B = ((m4 * dig_h2) + 8192) >> 14` (R62) -/
def humB (m4 h2 : Int) : Int := asr (m4 * h2 + 8192) 14

/-- `x = A * B` (R62) -/
def humX (adcH tFine h2 h3 h4 h5 h6 : Int) : Int :=
  let v := humV tFine
  humA adcH v h4 h5 * humB (humM4 (humM1 v h6) (humM2 v h3)) h2

/-- `k = ((sq(x >> 15) >> 7) * dig_h1) >> 4`, the correction term (R62) -/
def humK (x h1 : Int) : Int := asr (asr (square (asr x 15)) 7 * h1) 4

/-! The same lines as expressions; `Laws/Formulas.lean` shows that their values are the functions above. -/

/-- `v` (R62) -/
def exprV : IntExpr HumInput := .sub (.var .tFine) (.const 76800)

/-- `A` (R62) -/
def exprHumA : IntExpr HumInput :=
  .asr (.add (.sub (.sub (.shl (.var .adcH) 14) (.shl (.var .h4) 20)) (.mul (.var .h5) exprV)) (.const 16384)) 15

/-- `m1` (R62) -/
def exprM1 : IntExpr HumInput := .asr (.mul exprV (.var .h6)) 10

/-- `m2` (R62) -/
def exprM2 : IntExpr HumInput := .add (.asr (.mul exprV (.var .h3)) 11) (.const 32768)

/-- `m4` (R62) -/
def exprM4 : IntExpr HumInput := .add (.asr (.mul exprM1 exprM2) 10) (.const 2097152)

/-- `B` (R62) -/
def exprHumB : IntExpr HumInput := .asr (.add (.mul exprM4 (.var .h2)) (.const 8192)) 14

/-- `x >> 15` (R62) -/
def exprX15 : IntExpr CorrectionInput := .asr (.var .x) 15

/-- The default `HUM_BODY` (R62). -/
def defaultHumBody : HumBody where
  first := .mul exprHumA exprHumB
  corr := .asr (.mul (.asr (.mul exprX15 exprX15) 7) (.var .h1)) 4

end Sys2Proof.Machine
end

