-- ==== Sys2Proof/Machine/Params.lean ====
section
/-! DEFINITION. The defaults of the parameters (spec/00_scope.md R7; spec/20_memory.md R27), and the instance `exec` runs
(log 1 to log 4). -/

namespace Sys2Proof.Machine

/-- `RB_TOP`: one past the last register address (R7, fixed). -/
def rbTop : Nat := 0x100

/-- `RB_LEN = 0x100 - RB_BASE` (R7). -/
def rbLen (cfg : Config) : Nat := rbTop - cfg.rbBase

/-- The default `ADDR_MAP` (R27). -/
def defaultAddrMap : AddrMap where
  aT1 := 0x88
  aT2 := 0x8A
  aT3 := 0x8C
  aP1 := 0x8E
  aP2 := 0x90
  aP3 := 0x92
  aP4 := 0x94
  aP5 := 0x96
  aP6 := 0x98
  aP7 := 0x9A
  aP8 := 0x9C
  aP9 := 0x9E
  aH1 := 0xA1
  aH2 := 0xE1
  aH3 := 0xE3
  aH45 := 0xE4
  aH6 := 0xE7
  aPress := 0xF7
  aTemp := 0xFA
  aHum := 0xFD

/-- The instance that `exec` and `step` run: every parameter at its default (R7; DESIGN CHOICE, log 1 to log 4). The
operations below take a configuration as an argument, so claims about other instances can be stated too. -/
def config : Config where
  rbBase := 0x88
  addrMap := defaultAddrMap
  tVar1Form := .literal
  pressBody := defaultPressBody
  humBody := defaultHumBody

end Sys2Proof.Machine
end

