-- ==== Sys2Proof/Machine/Operands.lean ====
section
/-! DEFINITION. Operand forms: bytes of the RegisterBuffer and the packed fields made of them (spec/20_memory.md R28 to
R32; spec/40_decoder.md R50, R51), and the data registers as integers of their declared types (spec/10_state.md R16 to
R20). -/

namespace Sys2Proof.Machine

/-! ### Reads of the RegisterBuffer -/

/-- `RB[a]` (R12, R24). A byte that no load has filled is a free value (U6; log 8); no run reads one. -/
def State.rbByte (s : State) (a : Nat) : Byte := (s.rb.read a).getD (Config.freeByte a)

/-- `MemRead(a, 1)` (R12). -/
def State.memRead1 (s : State) (a : Nat) : Nat := (s.rbByte a).toNat

/-- `MemRead(a, 2) = RB[a] | (RB[a+1] << 8)` (R12, R28: little-endian). -/
def State.memRead2 (s : State) (a : Nat) : Nat := (s.rbByte a).toNat ||| ((s.rbByte (a + 1)).toNat <<< 8)

/-- `sext_16(MemRead(a, 2))` (R11, R48). -/
def State.memReadS16 (s : State) (a : Nat) : Int := sext 16 (s.memRead2 a)

/-- The address check of RDU16 and RDS16 (R32): `RB_BASE <= addr` and `addr + 1 <= 0xFF`. -/
def addrInBuffer (cfg : Config) (addr : Nat) : Bool := decide (cfg.rbBase ≤ addr) && decide (addr + 1 ≤ 0xFF)

/-- `(e4 << 4) + (e5 & 0x0F)` (R50), for the three bytes at `a`. -/
def State.packedH4 (s : State) (a : Nat) : Nat := ((s.rbByte a).toNat <<< 4) + ((s.rbByte (a + 1)).toNat &&& 0x0F)

/-- `(e6 << 4) + ((e5 & 0xF0) >> 4)` (R50), for the three bytes at `a`. -/
def State.packedH5 (s : State) (a : Nat) : Nat :=
  ((s.rbByte (a + 2)).toNat <<< 4) + (((s.rbByte (a + 1)).toNat &&& 0xF0) >>> 4)

/-- `(msb << 12) | (lsb << 4) | (xlsb >> 4)` (R29, R51), for the three bytes at `a`. -/
def State.raw20 (s : State) (a : Nat) : Nat :=
  ((s.rbByte a).toNat <<< 12) ||| ((s.rbByte (a + 1)).toNat <<< 4) ||| ((s.rbByte (a + 2)).toNat >>> 4)

/-- `(msb << 8) | lsb` (R29, R51), for the two bytes at `a`. -/
def State.raw16 (s : State) (a : Nat) : Nat := ((s.rbByte a).toNat <<< 8) ||| (s.rbByte (a + 1)).toNat

/-! ### Registers as integers (R16 to R20) -/

/-- An unsigned register as an integer. -/
def unsignedReg {n : Nat} (v : BitVec n) : Int := (v.toNat : Int)

/-- A signed register as an integer. -/
def signedReg {n : Nat} (v : BitVec n) : Int := v.toInt

/-- `CompT` of the current raw sample and constants (R54): `dig_t1` is unsigned, `dig_t2` and `dig_t3` signed (R16). -/
def compTOf (cfg : Config) (raw : RawSample) (cal : CalibrationSet) : Int × Int :=
  compT cfg.tVar1Form (unsignedReg raw.adcT) (unsignedReg cal.digT1) (signedReg cal.digT2) (signedReg cal.digT3)

/-- `CompP` of the current raw sample, `t_fine` and constants (R56): `dig_p1` is unsigned, the others signed (R16). -/
def compPOf (cfg : Config) (raw : RawSample) (tFine : BitVec 32) (cal : CalibrationSet) : Int × Bool :=
  compP cfg.pressBody (unsignedReg raw.adcP) (signedReg tFine) (unsignedReg cal.digP1) (signedReg cal.digP2)
    (signedReg cal.digP3) (signedReg cal.digP4) (signedReg cal.digP5) (signedReg cal.digP6) (signedReg cal.digP7)
    (signedReg cal.digP8) (signedReg cal.digP9)

/-- `CompH` of the current raw sample, `t_fine` and constants (R61): `dig_h2` is signed, the others unsigned (R16). -/
def compHOf (cfg : Config) (raw : RawSample) (tFine : BitVec 32) (cal : CalibrationSet) : Int × Bool × Bool :=
  compH cfg.humBody (unsignedReg raw.adcH) (signedReg tFine) (unsignedReg cal.digH1) (signedReg cal.digH2)
    (unsignedReg cal.digH3) (unsignedReg cal.digH4) (unsignedReg cal.digH5) (unsignedReg cal.digH6)

end Sys2Proof.Machine
end

