-- ==== Sys2Proof/Machine/BufferDecoder.lean ====
section
/-! DEFINITION. The Register Buffer Decoder: RDU16, RDS16, LDCAL, UNPACK (spec/40_decoder.md). Each meaning is stated for
every configuration first, then for the instance `exec` runs. -/

namespace Sys2Proof.Machine

/-- The checks of RDU16 and RDS16 (R47, R48; R71: checks 2 and 3). -/
def readChecks (cfg : Config) (addr : Nat) (s : State) : List (Bool × FaultCode) :=
  [(s.flag .rbValid, .bufferInvalid), (addrInBuffer cfg addr, .addrRange)]

/-- `RES <- v ; RES_VALID <- 1` (R47, R48). -/
def setResult (v : Int) (s : State) : State := { s with res := BitVec.ofInt 32 v }.setFlag .resValid true

/-- RDU16 in an instance `cfg` (R47). -/
def rdu16In (cfg : Config) (addr : Nat) (s : State) : Host.Outcome State Fault Refusal :=
  runCommand (readChecks cfg addr s) (fun s => setResult (s.memRead2 addr) s) s

/-- RDS16 in an instance `cfg` (R48). -/
def rds16In (cfg : Config) (addr : Nat) (s : State) : Host.Outcome State Fault Refusal :=
  runCommand (readChecks cfg addr s) (fun s => setResult (s.memReadS16 addr) s) s

/-- The CalibrationSet decoded from the buffer (R49, R50). -/
def decodeCalibration (m : AddrMap) (s : State) : CalibrationSet where
  digT1 := BitVec.ofNat 16 (s.memRead2 m.aT1)
  digT2 := BitVec.ofInt 16 (s.memReadS16 m.aT2)
  digT3 := BitVec.ofInt 16 (s.memReadS16 m.aT3)
  digP1 := BitVec.ofNat 16 (s.memRead2 m.aP1)
  digP2 := BitVec.ofInt 16 (s.memReadS16 m.aP2)
  digP3 := BitVec.ofInt 16 (s.memReadS16 m.aP3)
  digP4 := BitVec.ofInt 16 (s.memReadS16 m.aP4)
  digP5 := BitVec.ofInt 16 (s.memReadS16 m.aP5)
  digP6 := BitVec.ofInt 16 (s.memReadS16 m.aP6)
  digP7 := BitVec.ofInt 16 (s.memReadS16 m.aP7)
  digP8 := BitVec.ofInt 16 (s.memReadS16 m.aP8)
  digP9 := BitVec.ofInt 16 (s.memReadS16 m.aP9)
  digH1 := BitVec.ofNat 8 (s.memRead1 m.aH1)
  digH2 := BitVec.ofInt 16 (s.memReadS16 m.aH2)
  digH3 := BitVec.ofNat 8 (s.memRead1 m.aH3)
  digH4 := BitVec.ofNat 12 (s.packedH4 m.aH45)
  digH5 := BitVec.ofNat 12 (s.packedH5 m.aH45)
  digH6 := BitVec.ofNat 8 (s.memRead1 m.aH6)

/-- The effect of LDCAL (R49). -/
def ldcalEffect (cfg : Config) (s : State) : State :=
  { s with cal := decodeCalibration cfg.addrMap s }.setFlag .calValid true

/-- LDCAL in an instance `cfg` (R49; R71: checks 2 and 4, code 4). -/
def ldcalIn (cfg : Config) (s : State) : Host.Outcome State Fault Refusal :=
  runCommand [(s.flag .rbValid, .bufferInvalid), (!s.flag .calValid, .calLocked)] (ldcalEffect cfg) s

/-- The RawSample decoded from the buffer (R29, R51). -/
def decodeRaw (m : AddrMap) (s : State) : RawSample where
  adcT := BitVec.ofNat 20 (s.raw20 m.aTemp)
  adcP := BitVec.ofNat 20 (s.raw20 m.aPress)
  adcH := BitVec.ofNat 16 (s.raw16 m.aHum)

/-- The flags a new RawSample clears (R51): what belongs to the sample before it. -/
def clearSampleFlags (s : State) : State :=
  ((((((s.setFlag .tfValid false).setFlag .tValid false).setFlag .pValid false).setFlag .hValid false).setFlag .pUndef
    false).setFlag .hClampLo false).setFlag .hClampHi false

/-- The effect of UNPACK (R51). The data registers of the old sample keep their bits. -/
def unpackEffect (cfg : Config) (s : State) : State :=
  clearSampleFlags ({ s with raw := decodeRaw cfg.addrMap s }.setFlag .rawValid true)

/-- UNPACK in an instance `cfg` (R51; R71: check 2). -/
def unpackIn (cfg : Config) (s : State) : Host.Outcome State Fault Refusal :=
  runCommand [(s.flag .rbValid, .bufferInvalid)] (unpackEffect cfg) s

/-- RDU16 (R47). -/
def execRdu16 (addr : Nat) (s : State) : Host.Outcome State Fault Refusal := rdu16In config addr s

/-- RDS16 (R48). -/
def execRds16 (addr : Nat) (s : State) : Host.Outcome State Fault Refusal := rds16In config addr s

/-- LDCAL (R49). -/
def execLdcal (s : State) : Host.Outcome State Fault Refusal := ldcalIn config s

/-- UNPACK (R51). -/
def execUnpack (s : State) : Host.Outcome State Fault Refusal := unpackIn config s

end Sys2Proof.Machine
end

