-- ==== Sys2Proof/Machine/Compensation.lean ====
section
/-! DEFINITION. The Compensation Engine: COMPT, COMPP, COMPH, SAMPLE (spec/41_compensation.md). Each meaning is stated for
every configuration first, then for the instance `exec` runs. -/

namespace Sys2Proof.Machine

/-- The effect of COMPT (R54). -/
def comptEffect (cfg : Config) (s : State) : State :=
  let r := compTOf cfg s.raw s.cal
  ({ s with tFine := BitVec.ofInt 32 r.2, temp := BitVec.ofInt 32 r.1 }.setFlag .tfValid true).setFlag .tValid true

/-- COMPT in an instance `cfg` (R54; R71: checks 4, code 5, and 5). -/
def comptIn (cfg : Config) (s : State) : Host.Outcome State Fault Refusal :=
  runCommand [(s.flag .calValid, .noCal), (s.flag .rawValid, .noRaw)] (comptEffect cfg) s

/-- The checks of COMPP and COMPH (R56, R61; R71: checks 4, code 5, then 5 and 6). -/
def tFineChecks (s : State) : List (Bool × FaultCode) :=
  [(s.flag .calValid, .noCal), (s.flag .rawValid, .noRaw), (s.flag .tfValid, .noTFine)]

/-- The effect of COMPP (R56). `PRESS` is 128 bits wide; the default body never leaves that range (R66; log 13). -/
def comppEffect (cfg : Config) (s : State) : State :=
  let r := compPOf cfg s.raw s.tFine s.cal
  ({ s with press := BitVec.ofInt 128 r.1 }.setFlag .pUndef r.2).setFlag .pValid true

/-- COMPP in an instance `cfg` (R56). -/
def comppIn (cfg : Config) (s : State) : Host.Outcome State Fault Refusal :=
  runCommand (tFineChecks s) (comppEffect cfg) s

/-- The effect of COMPH (R61). -/
def comphEffect (cfg : Config) (s : State) : State :=
  let r := compHOf cfg s.raw s.tFine s.cal
  (({ s with hum := BitVec.ofInt 32 r.1 }.setFlag .hClampLo r.2.1).setFlag .hClampHi r.2.2).setFlag .hValid true

/-- COMPH in an instance `cfg` (R61). -/
def comphIn (cfg : Config) (s : State) : Host.Outcome State Fault Refusal :=
  runCommand (tFineChecks s) (comphEffect cfg) s

/-- The effect of SAMPLE: those of UNPACK, COMPT, COMPP and COMPH, in this order (R64). -/
def sampleEffect (cfg : Config) (s : State) : State :=
  comphEffect cfg (comppEffect cfg (comptEffect cfg (unpackEffect cfg s)))

/-- SAMPLE in an instance `cfg` (R64; R71: checks 2 and 4, code 5). -/
def sampleIn (cfg : Config) (s : State) : Host.Outcome State Fault Refusal :=
  runCommand [(s.flag .rbValid, .bufferInvalid), (s.flag .calValid, .noCal)] (sampleEffect cfg) s

/-- COMPT (R54). -/
def execCompt (s : State) : Host.Outcome State Fault Refusal := comptIn config s

/-- COMPP (R56). -/
def execCompp (s : State) : Host.Outcome State Fault Refusal := comppIn config s

/-- COMPH (R61). -/
def execComph (s : State) : Host.Outcome State Fault Refusal := comphIn config s

/-- SAMPLE (R64). -/
def execSample (s : State) : Host.Outcome State Fault Refusal := sampleIn config s

end Sys2Proof.Machine
end

