-- ==== Sys2Proof/Syntax.lean ====
section
/-! DEFINITION. The command set: one constructor per row of spec/opcode_table.json (spec/30_encoding.md R40, R46). -/

namespace Sys2Proof

/-- The eight commands of the FPCE. The operand of RDU16 and RDS16 is an absolute register address, 0 to 255 (R41,
R44); `Instr.WellFormed` says so. -/
inductive Instr where
  /-- `RDU16 addr`: unsigned little-endian read (R47) -/
  | rdu16 (addr : Nat)
  /-- `RDS16 addr`: signed little-endian read (R48) -/
  | rds16 (addr : Nat)
  /-- `LDCAL`: decode the CalibrationSet (R49) -/
  | ldcal
  /-- `UNPACK`: decode the RawSample (R51) -/
  | unpack
  /-- `COMPT`: temperature and `t_fine` (R54) -/
  | compt
  /-- `COMPP`: pressure (R56) -/
  | compp
  /-- `COMPH`: humidity (R61) -/
  | comph
  /-- `SAMPLE`: all of the last four, as one command (R64) -/
  | sample
  deriving DecidableEq, Repr

end Sys2Proof
end

