-- ==== Sys2Proof/Machine/Dispatch.lean ====
section
/-! DEFINITION. One arm per command: its meaning. -/

namespace Sys2Proof.Machine

/-- What a decoded command does (R45, stages 2 and 3). -/
def exec (i : Instr) (s : State) : Host.Outcome State Fault Refusal :=
  match i with
  | .rdu16 addr => Sys2Proof.Machine.execRdu16 addr s
  | .rds16 addr => Sys2Proof.Machine.execRds16 addr s
  | .ldcal => Sys2Proof.Machine.execLdcal s
  | .unpack => Sys2Proof.Machine.execUnpack s
  | .compt => Sys2Proof.Machine.execCompt s
  | .compp => Sys2Proof.Machine.execCompp s
  | .comph => Sys2Proof.Machine.execComph s
  | .sample => Sys2Proof.Machine.execSample s

end Sys2Proof.Machine
end

