-- ==== Sys2Proof/WellFormed.lean ====
section
/-! DEFINITION. Well-formed commands (spec/30_encoding.md R41, R44) and well-formed configurations (spec/20_memory.md
R27; spec/00_scope.md R7). -/

namespace Sys2Proof

/-- A command is well formed when its operand fits `ARG[7:0]` (R38, R41: an unsigned 8-bit register address). -/
def Instr.wellFormed : Instr → Bool
  | .rdu16 addr => decide (addr < 256)
  | .rds16 addr => decide (addr < 256)
  | .ldcal => true
  | .unpack => true
  | .compt => true
  | .compp => true
  | .comph => true
  | .sample => true

/-- Each field of the map with the number of its bytes (R27, the table's columns 2 and 3). -/
def AddrMap.fields (m : AddrMap) : List (Nat × Nat) :=
  [(m.aT1, 2), (m.aT2, 2), (m.aT3, 2)] ++
  [(m.aP1, 2), (m.aP2, 2), (m.aP3, 2), (m.aP4, 2), (m.aP5, 2), (m.aP6, 2), (m.aP7, 2), (m.aP8, 2), (m.aP9, 2)] ++
  [(m.aH1, 1), (m.aH2, 2), (m.aH3, 1), (m.aH45, 3), (m.aH6, 1)] ++
  [(m.aPress, 3), (m.aTemp, 3), (m.aHum, 2)]

/-- Whether an expression reads a name. -/
def IntExpr.mentions {V : Type} [DecidableEq V] (v : V) : IntExpr V → Bool
  | .var w => decide (v = w)
  | .const _ => false
  | .add a b => a.mentions v || b.mentions v
  | .sub a b => a.mentions v || b.mentions v
  | .mul a b => a.mentions v || b.mentions v
  | .shl a _ => a.mentions v
  | .asr a _ => a.mentions v
  | .band a b => a.mentions v || b.mentions v
  | .bor a b => a.mentions v || b.mentions v

/-- "one division by `var1`, and a refinement stage that uses `dig_p7`, `dig_p8` and `dig_p9`" (R55): the refinement reads
the quotient and the three constants. -/
def PressBody.wellFormed (b : PressBody) : Bool :=
  b.refinement.mentions .quotient && b.refinement.mentions (.input .p7) && b.refinement.mentions (.input .p8) &&
    b.refinement.mentions (.input .p9)

/-- "a value `x` that depends on `t_fine`, `adc_h` and `dig_h2 .. dig_h6` but not on `dig_h1`, then `y = x − (a correction
term that uses dig_h1)`" (R60): the first stage reads all its inputs, and the correction reads `dig_h1`. -/
def HumBody.wellFormed (b : HumBody) : Bool :=
  ([.adcH, .tFine, .h2, .h3, .h4, .h5, .h6].all fun i => b.first.mentions i) && b.corr.mentions .h1

/-- "Well-formedness of a configuration: every field's bytes lie in `RB_BASE .. 0xFF`" (R27), its `PRESS_BODY` has the shape
of R55 and its `HUM_BODY` that of R60. -/
def Config.wellFormed (cfg : Config) : Bool :=
  cfg.pressBody.wellFormed && cfg.humBody.wellFormed && cfg.addrMap.fields.all fun f => decide (cfg.rbBase ≤ f.1) && decide (f.1 + f.2 ≤ 0x100)

end Sys2Proof
end

