-- ==== Sys2Proof/Decode.lean ====
section
/-! DEFINITION. Decoding and encoding of command words (spec/30_encoding.md R38 to R43). -/

namespace Sys2Proof

/-- Why a word is illegal (R42 names the two kinds). -/
inductive DecodeReject where
  /-- `OPC` is none of the eight operation codes -/
  | unknownOpcode (opc : Byte)
  /-- an operation without operand, with `ARG != 0x00` -/
  | nonzeroArgument (opc arg : Byte)
  deriving DecidableEq, Repr

/-- One row of the opcode map (R40): the match and mask of the row and the command it stands for. -/
structure OpcodeRow where
  mnemonic : String
  pattern : CmdWord
  mask : CmdWord
  build : Byte → Instr

/-- The opcode map (R40; spec/opcode_table.json). -/
def opcodeMap : List OpcodeRow :=
  [⟨"RDU16", 0x0100, 0xFF00, fun arg => .rdu16 arg.toNat⟩,
   ⟨"RDS16", 0x0200, 0xFF00, fun arg => .rds16 arg.toNat⟩,
   ⟨"LDCAL", 0x1000, 0xFFFF, fun _ => .ldcal⟩,
   ⟨"UNPACK", 0x1100, 0xFFFF, fun _ => .unpack⟩,
   ⟨"COMPT", 0x2000, 0xFFFF, fun _ => .compt⟩,
   ⟨"COMPP", 0x2100, 0xFFFF, fun _ => .compp⟩,
   ⟨"COMPH", 0x2200, 0xFFFF, fun _ => .comph⟩,
   ⟨"SAMPLE", 0x2F00, 0xFFFF, fun _ => .sample⟩]

/-- "A word `w` selects the row with `(w & mask) = match`" (R40). -/
def OpcodeRow.selects (r : OpcodeRow) (w : CmdWord) : Bool :=
  w &&& r.mask == r.pattern

/-- `OPC`, bits 15:8 (R38). -/
def opcOf (w : CmdWord) : Byte := w.extractLsb' 8 8

/-- `ARG`, bits 7:0 (R38). -/
def argOf (w : CmdWord) : Byte := w.extractLsb' 0 8

/-- The first row of a list that a word selects. -/
def selectRow (w : CmdWord) : List OpcodeRow → Option OpcodeRow
  | [] => none
  | r :: rest => if r.selects w then some r else selectRow w rest

/-- Why a word that selects no row is illegal (R42). -/
def rejectReason (w : CmdWord) : DecodeReject :=
  if opcodeMap.any fun r => (r.pattern.extractLsb' 8 8 : Byte) == opcOf w then .nonzeroArgument (opcOf w) (argOf w)
  else .unknownOpcode (opcOf w)

/-- The decoder: total, and its last arm is "illegal" (R40 to R42). -/
def decode (w : CmdWord) : Except DecodeReject Instr :=
  match selectRow w opcodeMap with
  | some r => .ok (r.build (argOf w))
  | none => .error (rejectReason w)

/-- A word from its two fields (R38). -/
def assembleWord (opc arg : Byte) : CmdWord := opc ++ arg

/-- The encoder (R40): the word of a well-formed command. An operand that does not fit `ARG` has no encoding; its low
byte is taken here, and `Instr.wellFormed` refuses it. -/
def encode : Instr → CmdWord
  | .rdu16 addr => assembleWord 0x01 (BitVec.ofNat 8 addr)
  | .rds16 addr => assembleWord 0x02 (BitVec.ofNat 8 addr)
  | .ldcal => assembleWord 0x10 0x00
  | .unpack => assembleWord 0x11 0x00
  | .compt => assembleWord 0x20 0x00
  | .compp => assembleWord 0x21 0x00
  | .comph => assembleWord 0x22 0x00
  | .sample => assembleWord 0x2F 0x00

/-- The command word that a table row's bits stand for: a command is one 16-bit word (R38), and bits above `nbits` are 0
(log 16). -/
def tableWord (nbits w : Nat) : CmdWord := BitVec.ofNat 16 (w % 2 ^ nbits)

/-- The instruction the decoder reads from the bits of a table row. -/
def decodeTableWord (nbits w : Nat) : Option Instr :=
  match decode (tableWord nbits w) with
  | .ok i => some i
  | .error _ => none

end Sys2Proof
end

