-- ==== Sys2Proof/Machine/HostPort.lean ====
section
/-! DEFINITION. The host's moves that are not commands (spec/70_reset_and_hazards.md R86, R87, R90; spec/20_memory.md R26;
spec/10_state.md R22), the taking of the next action, and the answer to an illegal word. -/

namespace Sys2Proof.Machine

/-- `@RESET` (R86, R87): the state after reset. The host's own list of actions is not the machine's to reset, and free
values stay fresh (log 11). -/
def hostReset (s : State) : State := { State.reset with actions := s.actions, draws := s.draws }

/-- `LoadBuffer(bytes)` in an instance `cfg` (R26): the whole buffer is replaced, or, at a wrong length, has no contents
any more (log 10). No other state changes. -/
def hostLoadIn (cfg : Config) (bytes : List Byte) (s : State) : State :=
  if bytes.length = rbLen cfg then { s with rb := Memory.ofBytes cfg.rbBase bytes }.setFlag .rbValid true
  else { s with rb := [] }.setFlag .rbValid false

/-- `LoadBuffer(bytes)` (R26). -/
def hostLoad (bytes : List Byte) (s : State) : State := hostLoadIn config bytes s

/-- The index of a register on the read port (R22, the table). -/
def Reg.index : Reg → RegIndex
  | .status => 0x00
  | .res => 0x01
  | .temp => 0x02
  | .press => 0x03
  | .hum => 0x04
  | .tFine => 0x05
  | .adcT => 0x08
  | .adcP => 0x09
  | .adcH => 0x0A
  | .digT1 => 0x10
  | .digT2 => 0x11
  | .digT3 => 0x12
  | .digP1 => 0x13
  | .digP2 => 0x14
  | .digP3 => 0x15
  | .digP4 => 0x16
  | .digP5 => 0x17
  | .digP6 => 0x18
  | .digP7 => 0x19
  | .digP8 => 0x1A
  | .digP9 => 0x1B
  | .digH1 => 0x1C
  | .digH2 => 0x1D
  | .digH3 => 0x1E
  | .digH4 => 0x1F
  | .digH5 => 0x20
  | .digH6 => 0x21

/-- Every register of the read port. -/
def Reg.all : List Reg :=
  [.status, .res, .temp, .press, .hum, .tFine, .adcT, .adcP, .adcH, .digT1, .digT2, .digT3] ++
  [.digP1, .digP2, .digP3, .digP4, .digP5, .digP6, .digP7, .digP8, .digP9] ++
  [.digH1, .digH2, .digH3, .digH4, .digH5, .digH6]

/-- The register at an index of the read port, if the table of R22 has one there. -/
def Reg.ofIndex (idx : RegIndex) : Option Reg := Reg.all.find? fun r => r.index == idx

/-- The flag a register is valid under (R22); `STATUS` has none. -/
def Reg.validFlag : Reg → Option Flag
  | .status => none
  | .res => some .resValid
  | .temp => some .tValid
  | .press => some .pValid
  | .hum => some .hValid
  | .tFine => some .tfValid
  | .adcT | .adcP | .adcH => some .rawValid
  | .digT1 | .digT2 | .digT3 => some .calValid
  | .digP1 | .digP2 | .digP3 | .digP4 | .digP5 | .digP6 | .digP7 | .digP8 | .digP9 => some .calValid
  | .digH1 | .digH2 | .digH3 | .digH4 | .digH5 | .digH6 => some .calValid

/-- Whether a register's value may be relied on (R22). -/
def State.regValid (s : State) (r : Reg) : Bool :=
  match r.validFlag with
  | none => true
  | some f => s.flag f

/-- A register as the read port presents it: an unsigned one zero-extended, a signed one sign-extended (R22). -/
def State.regWord (s : State) : Reg → PortWord
  | .status => s.status.zeroExtend 128
  | .res => s.res.signExtend 128
  | .temp => s.temp.signExtend 128
  | .press => s.press
  | .hum => s.hum.zeroExtend 128
  | .tFine => s.tFine.signExtend 128
  | .adcT => s.raw.adcT.zeroExtend 128
  | .adcP => s.raw.adcP.zeroExtend 128
  | .adcH => s.raw.adcH.zeroExtend 128
  | .digT1 => s.cal.digT1.zeroExtend 128
  | .digT2 => s.cal.digT2.signExtend 128
  | .digT3 => s.cal.digT3.signExtend 128
  | .digP1 => s.cal.digP1.zeroExtend 128
  | .digP2 => s.cal.digP2.signExtend 128
  | .digP3 => s.cal.digP3.signExtend 128
  | .digP4 => s.cal.digP4.signExtend 128
  | .digP5 => s.cal.digP5.signExtend 128
  | .digP6 => s.cal.digP6.signExtend 128
  | .digP7 => s.cal.digP7.signExtend 128
  | .digP8 => s.cal.digP8.signExtend 128
  | .digP9 => s.cal.digP9.signExtend 128
  | .digH1 => s.cal.digH1.zeroExtend 128
  | .digH2 => s.cal.digH2.signExtend 128
  | .digH3 => s.cal.digH3.zeroExtend 128
  | .digH4 => s.cal.digH4.zeroExtend 128
  | .digH5 => s.cal.digH5.zeroExtend 128
  | .digH6 => s.cal.digH6.zeroExtend 128

/-- `RegRead(idx)` (R22): an index in no row of the table reads as 0; a register whose valid flag is 0 reads as a free
value, a fresh one each time (U1; log 9). No state of the spec changes. -/
def hostRead (idx : RegIndex) (s : State) : State :=
  match Reg.ofIndex idx with
  | none => s.answer (.data 0)
  | some r =>
    if s.regValid r then s.answer (.data (s.regWord r))
    else { s with draws := s.draws + 1 }.answer (.data (Config.freePortWord s.draws))

/-- The next host action and the state with it taken, if the host has one (R35; log 5). -/
def takeAction (s : State) : Option (HostAction × State) :=
  match s.actions with
  | [] => none
  | a :: rest => some (a, { s with actions := rest })

/-- The answer to a word that decodes to no command (R42): `Fault(1)`. -/
def illegalCommand (s : State) : State := raiseFault .illegalCmd s

end Sys2Proof.Machine
end

