-- ==== Sys2Proof/Machine/Step.lean ====
section
/-! DEFINITION. One step: the next host action, executed to completion (spec/10_state.md R14; spec/20_memory.md R35). -/

namespace Sys2Proof.Machine

/-- A command word (R45): decode, then the command; an illegal word takes `Fault(1)` (R42). -/
def runWord (w : CmdWord) (s : State) : Host.Outcome State Fault Refusal :=
  match decode w with
  | .ok i => exec i s
  | .error _ => .next (illegalCommand s)

/-- One host action (R90). -/
def runAction (a : HostAction) (s : State) : Host.Outcome State Fault Refusal :=
  match a with
  | .reset => .next (hostReset s)
  | .load bytes => .next (hostLoad bytes s)
  | .command w => runWord w s
  | .read idx => .next (hostRead idx s)

/-- One step: the host's next action. With none pending the FPCE "is idle and keeps all state" (R85; log 5). -/
def step (s : State) : Host.Outcome State Fault Refusal :=
  match takeAction s with
  | none => .next s
  | some (a, s') => runAction a s'

/-- The state in which the host's next action is to issue the command word of a table row (log 5, log 16). -/
def State.withFetchWord (s : State) (nbits w : Nat) : State :=
  { s with actions := .command (tableWord nbits w) :: s.actions }

end Sys2Proof.Machine
end

