-- ==== Sys2Proof/Machine/Assembler.lean ====
section
/-! DEFINITION. The assembler syntax (spec/30_encoding.md R44): one line to one host action. Lines are lists of
characters. It has no semantic content beyond the words and actions it writes (D24). -/

namespace Sys2Proof.Machine

/-- What one line of a listing holds. -/
inductive AsmLine where
  /-- nothing but white space or a comment -/
  | blank
  | command (i : Instr)
  /-- `@RESET` -/
  | reset
  /-- `@LOAD <name of a byte sequence>` -/
  | load (name : List Char)
  /-- `@READ <register name>` -/
  | read (r : Reg)
  deriving DecidableEq, Repr

/-- A register's name in a listing: the name of the read-port table (R22). -/
def Reg.name : Reg → String
  | .status => "STATUS"
  | .res => "RES"
  | .temp => "TEMP"
  | .press => "PRESS"
  | .hum => "HUM"
  | .tFine => "T_FINE"
  | .adcT => "ADC_T"
  | .adcP => "ADC_P"
  | .adcH => "ADC_H"
  | .digT1 => "DIG_T1"
  | .digT2 => "DIG_T2"
  | .digT3 => "DIG_T3"
  | .digP1 => "DIG_P1"
  | .digP2 => "DIG_P2"
  | .digP3 => "DIG_P3"
  | .digP4 => "DIG_P4"
  | .digP5 => "DIG_P5"
  | .digP6 => "DIG_P6"
  | .digP7 => "DIG_P7"
  | .digP8 => "DIG_P8"
  | .digP9 => "DIG_P9"
  | .digH1 => "DIG_H1"
  | .digH2 => "DIG_H2"
  | .digH3 => "DIG_H3"
  | .digH4 => "DIG_H4"
  | .digH5 => "DIG_H5"
  | .digH6 => "DIG_H6"

/-- A command's mnemonic (R40, R44). -/
def mnemonicOf : Instr → String
  | .rdu16 _ => "RDU16"
  | .rds16 _ => "RDS16"
  | .ldcal => "LDCAL"
  | .unpack => "UNPACK"
  | .compt => "COMPT"
  | .compp => "COMPP"
  | .comph => "COMPH"
  | .sample => "SAMPLE"

/-- The value of a digit in a base of at most 16 (log 17: hexadecimal digits of either case). -/
def digitValue (base : Nat) (c : Char) : Option Nat :=
  let n := c.toNat
  let d := if 0x30 ≤ n ∧ n ≤ 0x39 then n - 0x30
    else if 0x41 ≤ n ∧ n ≤ 0x46 then n - 0x41 + 10
    else if 0x61 ≤ n ∧ n ≤ 0x66 then n - 0x61 + 10
    else 16
  if d < base then some d else none

/-- The value of a row of digits, after the value of those before it. -/
def digitsValue (base : Nat) : Nat → List Char → Option Nat
  | acc, [] => some acc
  | acc, c :: rest =>
    match digitValue base c with
    | some d => digitsValue base (acc * base + d) rest
    | none => none

/-- A register address: "a literal (`0x`-prefixed hexadecimal or decimal, 0 to 255)" (R44). -/
def parseAddress (tok : List Char) : Option Nat :=
  let v := match tok with
    | [] => none
    | ['0', 'x'] => none
    | '0' :: 'x' :: digits => digitsValue 16 0 digits
    | digits => digitsValue 10 0 digits
  match v with
  | some n => if n < 256 then some n else none
  | none => none

/-- White space in a line (log 17). -/
def isBlank (c : Char) : Bool := c == ' ' || c == '\t' || c == '\r'

/-- A line without its comment: "Anything after `;` is a comment" (R44). -/
def withoutComment : List Char → List Char
  | [] => []
  | c :: rest => if c == ';' then [] else c :: withoutComment rest

/-- Put a token in front of the tokens after it, if it is not empty. -/
def pushToken (tok : List Char) (rest : List (List Char)) : List (List Char) := if tok = [] then rest else tok :: rest

/-- The tokens of a line; `cur` holds the characters of the token being read. -/
def tokens : (cur : List Char) → List Char → List (List Char)
  | cur, [] => pushToken cur []
  | cur, c :: rest => if isBlank c then pushToken cur (tokens [] rest) else tokens (cur ++ [c]) rest

/-- The command of a mnemonic that takes no operand. -/
def plainCommand (tok : List Char) : Option Instr :=
  [Instr.ldcal, .unpack, .compt, .compp, .comph, .sample].find? fun i => tok == (mnemonicOf i).toList

/-- The register of a name. -/
def parseRegister (tok : List Char) : Option Reg := Reg.all.find? fun r => tok == r.name.toList

/-- A line with an operand. -/
def parseWithOperand (op arg : List Char) : Option AsmLine :=
  if op == "RDU16".toList then (parseAddress arg).map fun a => .command (.rdu16 a)
  else if op == "RDS16".toList then (parseAddress arg).map fun a => .command (.rds16 a)
  else if op == "@LOAD".toList then some (.load arg)
  else if op == "@READ".toList then (parseRegister arg).map .read
  else none

/-- One line of a listing (R44); `none` for a line outside the syntax. -/
def parseLine (line : List Char) : Option AsmLine :=
  match tokens [] (withoutComment line) with
  | [] => some .blank
  | [op] => if op == "@RESET".toList then some .reset else (plainCommand op).map .command
  | [op, arg] => parseWithOperand op arg
  | _ => none

/-- The host action a line stands for, with `buffers` naming the byte sequences of `@LOAD`. A blank line stands for none. -/
def AsmLine.action (buffers : List (List Char × List Byte)) : AsmLine → Option HostAction
  | .blank => none
  | .command i => some (.command (encode i))
  | .reset => some .reset
  | .load name => (buffers.find? fun b => b.1 == name).map fun b => .load b.2
  | .read r => some (.read r.index)

end Sys2Proof.Machine
end

