-- ==== Sys2Proof/Machine/Units.lean ====
section
/-! DEFINITION. What the outputs stand for (spec/41_compensation.md R67). The FPCE performs none of these divisions: they
are for a reader who converts a register's value, as exact rational numbers. -/

namespace Sys2Proof.Machine

/-- "`TEMP / 100` is degrees Celsius" (R67). -/
def State.degreesCelsius (s : State) : ℚ := (s.temp.toInt : ℚ) / 100

/-- "`PRESS / 25600` is millibar"; "`PRESS = 0` with `P_UNDEF = 1` means 'pressure unavailable for this sample', not zero
pressure" (R67). -/
def State.millibar (s : State) : Option ℚ :=
  if s.flag .pUndef then none else some ((s.press.toInt : ℚ) / 25600)

/-- "`HUM / 1024` is percent relative humidity" (R67). -/
def State.percentHumidity (s : State) : ℚ := (s.hum.toNat : ℚ) / 1024

end Sys2Proof.Machine
end

