-- ==== Sys2Proof/Safety.lean ====
section
/-! DEFINITION. What holds of every state a run reaches, in the terms claims use (spec/10_state.md R15 to R21;
spec/41_compensation.md R65; spec/70_reset_and_hazards.md R95 to R98). -/

namespace Sys2Proof.Machine

/-- The RegisterBuffer is in order in an instance `cfg`: its form is canonical, it holds no address outside
`RB_BASE .. 0xFF` (R24), and under `RB_VALID` every byte of it has been loaded (R15, R26). -/
structure State.BufferInOrder (cfg : Config) (s : State) : Prop where
  canonical : s.rb.wf
  inside : ∀ a b, s.rb.read a = some b → cfg.rbBase ≤ a ∧ a ≤ 0xFF
  loaded : s.flag .rbValid = true → ∀ a, cfg.rbBase ≤ a → a ≤ 0xFF → (s.rb.read a).isSome

/-- The fields of `STATUS` fit together (R21): the reserved bit reads 0, `ERR` is a code of R70, and no flag says more
than the flags it rests on (R18, R19, R95 to R97). -/
structure State.StatusInOrder (s : State) : Prop where
  reserved : getReserved s.status = false
  errCode : s.err.toNat ≤ 7
  tFineNeedsCal : s.flag .tfValid = true → s.flag .calValid = true
  tFineNeedsRaw : s.flag .tfValid = true → s.flag .rawValid = true
  tempWithTFine : s.flag .tValid = s.flag .tfValid
  pressNeedsTFine : s.flag .pValid = true → s.flag .tfValid = true
  humNeedsTFine : s.flag .hValid = true → s.flag .tfValid = true
  undefNeedsPress : s.flag .pUndef = true → s.flag .pValid = true
  clampLoNeedsHum : s.flag .hClampLo = true → s.flag .hValid = true
  clampHiNeedsHum : s.flag .hClampHi = true → s.flag .hValid = true
  oneClamp : ¬ (s.flag .hClampLo = true ∧ s.flag .hClampHi = true)

/-- Every valid output belongs to the current RawSample and CalibrationSet, in an instance `cfg` (R18, R65(b), R97): read
as an exact integer, each register is the formula's value on the current inputs. -/
structure State.OutputsCoherent (cfg : Config) (s : State) : Prop where
  tFine : s.flag .tfValid = true → s.tFine.toInt = (compTOf cfg s.raw s.cal).2
  temp : s.flag .tValid = true → s.temp.toInt = (compTOf cfg s.raw s.cal).1
  press : s.flag .pValid = true →
    s.press.toInt = (compPOf cfg s.raw s.tFine s.cal).1 ∧ s.flag .pUndef = (compPOf cfg s.raw s.tFine s.cal).2
  hum : s.flag .hValid = true →
    (s.hum.toNat : Int) = (compHOf cfg s.raw s.tFine s.cal).1 ∧
      s.flag .hClampLo = (compHOf cfg s.raw s.tFine s.cal).2.1 ∧
      s.flag .hClampHi = (compHOf cfg s.raw s.tFine s.cal).2.2

/-- The invariant of the machine `step` runs. -/
structure State.Inv (s : State) : Prop where
  buffer : s.BufferInOrder config
  status : s.StatusInOrder
  outputs : s.OutputsCoherent config

/-- "No fault has happened" in this session (R77: claims "take `ERR = 0` as a premise or conclusion"). -/
def State.FaultFree (s : State) : Prop := s.err = 0

/-- The states a run can reach: from reset, the host adds actions to its list and the machine takes them (R35, R90). -/
inductive Reachable : State → Prop where
  | reset : Reachable State.reset
  | offer (s : State) (more : List HostAction) : Reachable s → Reachable { s with actions := s.actions ++ more }
  | step (s t : State) : Reachable s → step s = .next t → Reachable t

end Sys2Proof.Machine
end

