-- ==== Sys2Proof/Certificates/Slice0/Obligations.lean ====
section
/-! DEFINITION. The statements for the provers, from the numbered rules of spec/. Expected values are written out here from
the rules (weighted sums of bytes, `/` by literal powers of two), not through the model's own packing operations. A
statement that depends on a parameter's default says so in its docstring. -/

namespace Sys2Proof.Claims

open Sys2Proof Sys2Proof.Machine

/-- The state after `raise Fault(c)` (R76). -/
def faulted (c : FaultCode) (s : State) : State :=
  { s with status := if s.err = 0 then putErr s.status c.code else s.status, output := some (.response (.fault c)) }

/-- The state with the response OK. -/
def responded (s : State) : State := { s with output := some (.response .ok) }

/-- `RB` holds the bytes `byte` at every address of the address space (R24). -/
def BufferHolds (byte : Nat → Byte) (s : State) : Prop :=
  ∀ a, config.rbBase ≤ a → a ≤ 0xFF → s.rb.read a = some (byte a)

/-- The little-endian word of two bytes (R28), as a sum. -/
def word16 (byte : Nat → Byte) (a : Nat) : Int := (byte a).toNat + 256 * (byte (a + 1)).toNat

/-- "values ≥ 32768 become `value - 65536`" (R11, R48). -/
def signed16 (byte : Nat → Byte) (a : Nat) : Int :=
  if word16 byte a < 32768 then word16 byte a else word16 byte a - 65536

/-- The 20-bit raw value of three bytes (R29, R51), as a sum. -/
def packed20 (byte : Nat → Byte) (a : Nat) : Int :=
  4096 * (byte a).toNat + 16 * (byte (a + 1)).toNat + (byte (a + 2)).toNat / 16

/-- Which fault a command raises, if any: R71's list for the command, the first failing check. -/
def firstFault (i : Instr) (s : State) : Option FaultCode :=
  match i with
  | .rdu16 a | .rds16 a =>
    if s.flag .rbValid = false then some .bufferInvalid
    else if a < config.rbBase ∨ 0xFF < a + 1 then some .addrRange
    else none
  | .ldcal =>
    if s.flag .rbValid = false then some .bufferInvalid
    else if s.flag .calValid = true then some .calLocked
    else none
  | .unpack => if s.flag .rbValid = false then some .bufferInvalid else none
  | .compt =>
    if s.flag .calValid = false then some .noCal
    else if s.flag .rawValid = false then some .noRaw
    else none
  | .compp | .comph =>
    if s.flag .calValid = false then some .noCal
    else if s.flag .rawValid = false then some .noRaw
    else if s.flag .tfValid = false then some .noTFine
    else none
  | .sample =>
    if s.flag .rbValid = false then some .bufferInvalid
    else if s.flag .calValid = false then some .noCal
    else none

/-- The response to a fault, or OK. -/
def responseOf : Option FaultCode → Response
  | some c => .fault c
  | none => .ok

/-- The data registers a command writes (R16 to R20, columns "written by"). -/
def writtenRegs : Instr → List Reg
  | .rdu16 _ | .rds16 _ => [.res]
  | .ldcal =>
    [.digT1, .digT2, .digT3, .digP1, .digP2, .digP3, .digP4, .digP5, .digP6, .digP7, .digP8, .digP9] ++
    [.digH1, .digH2, .digH3, .digH4, .digH5, .digH6]
  | .unpack => [.adcT, .adcP, .adcH]
  | .compt => [.tFine, .temp]
  | .compp => [.press]
  | .comph => [.hum]
  | .sample => [.adcT, .adcP, .adcH, .tFine, .temp, .press, .hum]

/-- The flags a command writes (R21, columns "set by" and "cleared by"). -/
def writtenFlags : Instr → List Flag
  | .rdu16 _ | .rds16 _ => [.resValid]
  | .ldcal => [.calValid]
  | .unpack => [.rawValid, .tfValid, .tValid, .pValid, .hValid, .pUndef, .hClampLo, .hClampHi]
  | .compt => [.tfValid, .tValid]
  | .compp => [.pValid, .pUndef]
  | .comph => [.hValid, .hClampLo, .hClampHi]
  | .sample => [.rawValid, .tfValid, .tValid, .pValid, .hValid, .pUndef, .hClampLo, .hClampHi]

/-- The read port's table of indices (R22). -/
def readPortTable : List (RegIndex × Reg) :=
  [(0x00, .status), (0x01, .res), (0x02, .temp), (0x03, .press), (0x04, .hum), (0x05, .tFine)] ++
  [(0x08, .adcT), (0x09, .adcP), (0x0A, .adcH)] ++
  [(0x10, .digT1), (0x11, .digT2), (0x12, .digT3), (0x13, .digP1), (0x14, .digP2), (0x15, .digP3)] ++
  [(0x16, .digP4), (0x17, .digP5), (0x18, .digP6), (0x19, .digP7), (0x1A, .digP8), (0x1B, .digP9)] ++
  [(0x1C, .digH1), (0x1D, .digH2), (0x1E, .digH3), (0x1F, .digH4), (0x20, .digH5), (0x21, .digH6)]

/-- The value of a register under its declared type (R16 to R21). -/
def registerValue (s : State) : Reg → Int
  | .status => s.status.toNat
  | .res => s.res.toInt
  | .temp => s.temp.toInt
  | .press => s.press.toInt
  | .hum => s.hum.toNat
  | .tFine => s.tFine.toInt
  | .adcT => s.raw.adcT.toNat
  | .adcP => s.raw.adcP.toNat
  | .adcH => s.raw.adcH.toNat
  | .digT1 => s.cal.digT1.toNat
  | .digT2 => s.cal.digT2.toInt
  | .digT3 => s.cal.digT3.toInt
  | .digP1 => s.cal.digP1.toNat
  | .digP2 => s.cal.digP2.toInt
  | .digP3 => s.cal.digP3.toInt
  | .digP4 => s.cal.digP4.toInt
  | .digP5 => s.cal.digP5.toInt
  | .digP6 => s.cal.digP6.toInt
  | .digP7 => s.cal.digP7.toInt
  | .digP8 => s.cal.digP8.toInt
  | .digP9 => s.cal.digP9.toInt
  | .digH1 => s.cal.digH1.toNat
  | .digH2 => s.cal.digH2.toInt
  | .digH3 => s.cal.digH3.toNat
  | .digH4 => s.cal.digH4.toNat
  | .digH5 => s.cal.digH5.toNat
  | .digH6 => s.cal.digH6.toNat

/-- Two states that agree on all the spec specifies: on `STATUS`, on the host's side, on every register whose valid flag
is 1, and on `RB` under `RB_VALID`. The rest is unspecified (R22, R87; U1, U6). -/
structure AgreeOnSpecified (s s' : State) : Prop where
  status : s.status = s'.status
  actions : s.actions = s'.actions
  output : s.output = s'.output
  draws : s.draws = s'.draws
  regs : ∀ r, s.regValid r = true → s.regWord r = s'.regWord r
  buffer : s.flag .rbValid = true → ∀ a, s.rb.read a = s'.rb.read a

/-- `v` lies in an interval of R66. -/
def Within (lo v hi : Int) : Prop := lo ≤ v ∧ v ≤ hi

/-- `v` has a magnitude below a bound of R66. -/
def Below (v bound : Int) : Prop := -bound < v ∧ v < bound

end Sys2Proof.Claims

open Sys2Proof Sys2Proof.Machine Sys2Proof.Claims

/-! ### Encoding -/

/-- Decoding the encoding of a well-formed command gives it back, with every operand the encoding admits (R40, R41). -/
def Obligations.DecodeOfEncodeIsTheCommand : Prop :=
  ∀ i : Instr, i.wellFormed = true → decode (encode i) = .ok i

/-- R43: "decode followed by encode is the identity on legal words", so no two words are one command and no field of a
legal word is ignored. -/
def Obligations.EncodeOfDecodeIsTheWord : Prop :=
  ∀ (w : CmdWord) (i : Instr), decode w = .ok i → encode i = w ∧ i.wellFormed = true

/-- R40: the match and mask of each row, and that the rows are disjoint. -/
def Obligations.OpcodeMapRowsAreDisjoint : Prop :=
  (opcodeMap.map fun r => (r.mnemonic, r.pattern, r.mask)) =
      [("RDU16", 0x0100, 0xFF00), ("RDS16", 0x0200, 0xFF00), ("LDCAL", 0x1000, 0xFFFF), ("UNPACK", 0x1100, 0xFFFF),
       ("COMPT", 0x2000, 0xFFFF), ("COMPP", 0x2100, 0xFFFF), ("COMPH", 0x2200, 0xFFFF), ("SAMPLE", 0x2F00, 0xFFFF)] ∧
  (∀ w : CmdWord,
    (w &&& 0xFF00 = 0x0100 → decode w = .ok (.rdu16 (w.toNat % 256))) ∧
    (w &&& 0xFF00 = 0x0200 → decode w = .ok (.rds16 (w.toNat % 256))) ∧
    (w = 0x1000 → decode w = .ok .ldcal) ∧ (w = 0x1100 → decode w = .ok .unpack) ∧
    (w = 0x2000 → decode w = .ok .compt) ∧ (w = 0x2100 → decode w = .ok .compp) ∧
    (w = 0x2200 → decode w = .ok .comph) ∧ (w = 0x2F00 → decode w = .ok .sample)) ∧
  ∀ (w : CmdWord) (r r' : OpcodeRow), r ∈ opcodeMap → r' ∈ opcodeMap → w &&& r.mask = r.pattern →
    w &&& r'.mask = r'.pattern → r = r'

/-- R42: which words are illegal, and that an illegal word raises `Fault(1)` "and changes no state except `STATUS.ERR`". -/
def Obligations.IllegalWordsTakeFaultOne : Prop :=
  (∀ opc arg : Byte,
    (∃ e, decode (opc ++ arg) = .error e) ↔
      (opc ∉ [0x01, 0x02, 0x10, 0x11, 0x20, 0x21, 0x22, 0x2F] ∨
        (opc ∈ [0x10, 0x11, 0x20, 0x21, 0x22, 0x2F] ∧ arg ≠ 0x00))) ∧
  (∃ e, decode 0x0000 = .error e) ∧ (∃ e, decode 0xFFFF = .error e) ∧
  ∀ (s : State) (w : CmdWord) (rest : List HostAction) (e : DecodeReject),
    s.actions = .command w :: rest → decode w = .error e →
      step s = .next (faulted .illegalCmd { s with actions := rest })

/-- The words of spec/95_test_vectors.md 2.1 decode as the table there says. -/
def Obligations.WordsOfTheVectorTableDecode : Prop :=
  decode 0x0188 = .ok (.rdu16 0x88) ∧ decode 0x02FE = .ok (.rds16 0xFE) ∧ decode 0x0100 = .ok (.rdu16 0x00) ∧
  decode 0x1000 = .ok .ldcal ∧ decode 0x1100 = .ok .unpack ∧ decode 0x2000 = .ok .compt ∧
  decode 0x2100 = .ok .compp ∧ decode 0x2200 = .ok .comph ∧ decode 0x2F00 = .ok .sample ∧
  decode 0x1001 = .error (.nonzeroArgument 0x10 0x01) ∧ decode 0x2F01 = .error (.nonzeroArgument 0x2F 0x01) ∧
  decode 0x0300 = .error (.unknownOpcode 0x03) ∧ decode 0x2300 = .error (.unknownOpcode 0x23) ∧
  decode 0x3000 = .error (.unknownOpcode 0x30)

/-- The example listing of R44 assembles to the words it shows. -/
def Obligations.ExampleListingAssembles : Prop :=
  (parseLine "LDCAL            ; 0x1000".toList).bind (·.action []) = some (.command 0x1000) ∧
  (parseLine "RDU16 0x88       ; 0x0188".toList).bind (·.action []) = some (.command 0x0188) ∧
  (parseLine "SAMPLE           ; 0x2F00".toList).bind (·.action []) = some (.command 0x2F00) ∧
  (parseLine "@READ TEMP".toList).bind (·.action []) = some (.read 0x02) ∧
  (parseLine "@RESET".toList).bind (·.action []) = some .reset ∧
  (parseLine "@LOAD buf1".toList).bind (·.action [("buf1".toList, [0x70])]) = some (.load [0x70])

/-! ### A step -/

/-- A step with a command word at the head of the host's actions runs the decoded command, on the state with that action
taken (R14, R45; the list of actions is the model's, log 5). -/
def Obligations.StepRunsTheDecodedCommand : Prop :=
  ∀ (s : State) (w : CmdWord) (rest : List HostAction) (i : Instr),
    s.actions = .command w :: rest → decode w = .ok i → step s = exec i { s with actions := rest }

/-- No state stops the machine: every step answers a next state (R68, R69, R74). -/
def Obligations.EveryStepAnswersANextState : Prop :=
  ∀ s : State, ∃ t, step s = .next t

/-- Host actions are taken one at a time and in the host's order (R14, R35); with none pending all state is kept (R85;
log 5). -/
def Obligations.ActionsAreTakenInOrder : Prop :=
  (∀ s : State, s.actions = [] → step s = .next s) ∧
  ∀ (s t : State) (a : HostAction) (rest : List HostAction), s.actions = a :: rest → step s = .next t → t.actions = rest

/-! ### Faults -/

/-- R71: the response of every command word is that of its first failing check, in the fixed order; OK if none fails. -/
def Obligations.FirstFailingCheckIsReported : Prop :=
  ∀ (s : State) (w : CmdWord) (rest : List HostAction), s.actions = .command w :: rest →
    ∃ t, step s = .next t ∧
      t.output = some (.response (match decode w with
        | .error _ => .fault .illegalCmd
        | .ok i => responseOf (firstFault i s)))

/-- R76: a fault latches its code if `ERR` is 0, responds with its own code, and changes nothing else: of a decoded command,
and of every command word of the host, illegal ones too. -/
def Obligations.FaultEntryChangesOnlyErr : Prop :=
  (∀ (i : Instr) (s t : State) (c : FaultCode), exec i s = .next t → t.output = some (.response (.fault c)) →
    t = faulted c s ∧ (∀ f, t.flag f = s.flag f) ∧ t.err = (if s.err = 0 then c.code else s.err)) ∧
  ∀ (s t : State) (w : CmdWord) (rest : List HostAction) (c : FaultCode), s.actions = .command w :: rest →
    step s = .next t → t.output = some (.response (.fault c)) → t = faulted c { s with actions := rest }

/-- `ERR` keeps the first code until reset (R21, R77): no step but a reset changes an `ERR` that is not 0. -/
def Obligations.ErrIsStickyUntilReset : Prop :=
  ∀ s t : State, step s = .next t → (∀ rest, s.actions ≠ .reset :: rest) → s.err ≠ 0 → t.err = s.err

/-- A fault "does not disable any command" (R77): with another value in `ERR` a command does the same in all but `ERR`. -/
def Obligations.ErrInfluencesNoCommand : Prop :=
  ∀ (i : Instr) (s t : State) (e : BitVec 4), exec i s = .next t →
    ∃ t', exec i (s.setErr e) = .next t' ∧ t'.setErr 0 = t.setErr 0

/-- The codes of the faults (R70) and the response as an 8-bit word (R39). -/
def Obligations.ResponseWordsCarryTheCodes : Prop :=
  Response.ok.word = 0x00 ∧ (Response.fault .illegalCmd).word = 0x81 ∧ (Response.fault .bufferInvalid).word = 0x82 ∧
  (Response.fault .addrRange).word = 0x83 ∧ (Response.fault .calLocked).word = 0x84 ∧
  (Response.fault .noCal).word = 0x85 ∧ (Response.fault .noRaw).word = 0x86 ∧ (Response.fault .noTFine).word = 0x87

/-- After a reset every command faults on its first state check (R88): code 5 for COMPT, COMPP and COMPH, else code 2. -/
def Obligations.CommandsFaultRightAfterReset : Prop :=
  ∀ (s : State) (i : Instr) (rest : List HostAction), i.wellFormed = true →
    s.actions = .reset :: .command (encode i) :: rest →
      ∃ t u, step s = .next t ∧ step t = .next u ∧
        u.output = some (.response (.fault (if i = .compt ∨ i = .compp ∨ i = .comph then .noCal else .bufferInvalid)))

/-! ### The Register Buffer Decoder -/

/-- R47: RDU16. -/
def Obligations.Rdu16ReadsAnUnsignedWord : Prop :=
  (∀ arg : Byte, decode ((0x01 : Byte) ++ arg) = .ok (.rdu16 arg.toNat)) ∧
  ∀ (s : State) (a : Nat),
    (s.flag .rbValid = false → exec (.rdu16 a) s = .next (faulted .bufferInvalid s)) ∧
    (s.flag .rbValid = true → a < config.rbBase ∨ 0xFF < a + 1 →
      exec (.rdu16 a) s = .next (faulted .addrRange s)) ∧
    (∀ byte, s.flag .rbValid = true → BufferHolds byte s → config.rbBase ≤ a → a + 1 ≤ 0xFF →
      ∃ t, exec (.rdu16 a) s = .next t ∧ t.res.toInt = word16 byte a ∧
        t = responded ({ s with res := t.res }.setFlag .resValid true))

/-- R48: RDS16. -/
def Obligations.Rds16ReadsASignedWord : Prop :=
  (∀ arg : Byte, decode ((0x02 : Byte) ++ arg) = .ok (.rds16 arg.toNat)) ∧
  ∀ (s : State) (a : Nat),
    (s.flag .rbValid = false → exec (.rds16 a) s = .next (faulted .bufferInvalid s)) ∧
    (s.flag .rbValid = true → a < config.rbBase ∨ 0xFF < a + 1 →
      exec (.rds16 a) s = .next (faulted .addrRange s)) ∧
    (∀ byte, s.flag .rbValid = true → BufferHolds byte s → config.rbBase ≤ a → a + 1 ≤ 0xFF →
      ∃ t, exec (.rds16 a) s = .next t ∧ t.res.toInt = signed16 byte a ∧
        t = responded ({ s with res := t.res }.setFlag .resValid true))

/-- R52: the two reads agree below 32768 and differ by 65536 from there on. -/
def Obligations.SignedAndUnsignedReadsAgree : Prop :=
  ∀ (s : State) (a : Nat), s.flag .rbValid = true → config.rbBase ≤ a → a + 1 ≤ 0xFF →
    ∃ t u, exec (.rdu16 a) s = .next t ∧ exec (.rds16 a) s = .next u ∧
      (t.res.toInt < 32768 → u.res.toInt = t.res.toInt) ∧
      (32768 ≤ t.res.toInt → u.res.toInt = t.res.toInt - 65536)

/-- R49 and R50: LDCAL decodes the 18 constants, each from the bytes at its address of the map and under its own type,
once per session. -/
def Obligations.LdcalDecodesTheCalibrationSet : Prop :=
  decode 0x1000 = .ok .ldcal ∧
  ∀ s : State,
    (s.flag .rbValid = false → exec .ldcal s = .next (faulted .bufferInvalid s)) ∧
    (s.flag .rbValid = true → s.flag .calValid = true → exec .ldcal s = .next (faulted .calLocked s)) ∧
    (∀ byte, s.flag .rbValid = true → s.flag .calValid = false → BufferHolds byte s →
      ∃ t, exec .ldcal s = .next t ∧
        t = responded ({ s with cal := t.cal }.setFlag .calValid true) ∧
        t.cal.digT1.toNat = word16 byte config.addrMap.aT1 ∧
        t.cal.digT2.toInt = signed16 byte config.addrMap.aT2 ∧
        t.cal.digT3.toInt = signed16 byte config.addrMap.aT3 ∧
        t.cal.digP1.toNat = word16 byte config.addrMap.aP1 ∧
        t.cal.digP2.toInt = signed16 byte config.addrMap.aP2 ∧
        t.cal.digP3.toInt = signed16 byte config.addrMap.aP3 ∧
        t.cal.digP4.toInt = signed16 byte config.addrMap.aP4 ∧
        t.cal.digP5.toInt = signed16 byte config.addrMap.aP5 ∧
        t.cal.digP6.toInt = signed16 byte config.addrMap.aP6 ∧
        t.cal.digP7.toInt = signed16 byte config.addrMap.aP7 ∧
        t.cal.digP8.toInt = signed16 byte config.addrMap.aP8 ∧
        t.cal.digP9.toInt = signed16 byte config.addrMap.aP9 ∧
        t.cal.digH1.toNat = (byte config.addrMap.aH1).toNat ∧
        t.cal.digH2.toInt = signed16 byte config.addrMap.aH2 ∧
        t.cal.digH3.toNat = (byte config.addrMap.aH3).toNat ∧
        t.cal.digH4.toNat = 16 * (byte config.addrMap.aH45).toNat + (byte (config.addrMap.aH45 + 1)).toNat % 16 ∧
        t.cal.digH5.toNat = 16 * (byte (config.addrMap.aH45 + 2)).toNat + (byte (config.addrMap.aH45 + 1)).toNat / 16 ∧
        t.cal.digH6.toNat = (byte config.addrMap.aH6).toNat)

/-- R51: UNPACK decodes the three raw values and clears what belongs to the sample before them. -/
def Obligations.UnpackDecodesTheRawSample : Prop :=
  decode 0x1100 = .ok .unpack ∧
  ∀ s : State,
    (s.flag .rbValid = false → exec .unpack s = .next (faulted .bufferInvalid s)) ∧
    (∀ byte, s.flag .rbValid = true → BufferHolds byte s →
      ∃ t, exec .unpack s = .next t ∧
        t = responded { s with raw := t.raw, status := t.status } ∧
        t.raw.adcP.toNat = packed20 byte config.addrMap.aPress ∧
        t.raw.adcT.toNat = packed20 byte config.addrMap.aTemp ∧
        t.raw.adcH.toNat = 256 * (byte config.addrMap.aHum).toNat + (byte (config.addrMap.aHum + 1)).toNat ∧
        t.flag .rawValid = true ∧ t.flag .tfValid = false ∧ t.flag .tValid = false ∧ t.flag .pValid = false ∧
        t.flag .hValid = false ∧ t.flag .pUndef = false ∧ t.flag .hClampLo = false ∧ t.flag .hClampHi = false ∧
        t.flag .rbValid = s.flag .rbValid ∧ t.flag .calValid = s.flag .calValid ∧
        t.flag .resValid = s.flag .resValid ∧ t.err = s.err ∧ getReserved t.status = getReserved s.status)

/-! ### The Compensation Engine -/

/-- R53: `CompT`, in both forms of its first term, on all integers. -/
def Obligations.TemperatureFormula : Prop :=
  ∀ adcT t1 t2 t3 : Int,
    (let tFine := (adcT / 8 - t1 * 2) * (t2 / 2048) + (adcT / 16 - t1) * (adcT / 16 - t1) / 4096 * t3 / 16384
     compT .literal adcT t1 t2 t3 = ((tFine * 5 + 128) / 256, tFine)) ∧
    (let tFine := (adcT / 8 - t1 * 2) * t2 / 2048 + (adcT / 16 - t1) * (adcT / 16 - t1) / 4096 * t3 / 16384
     compT .reference adcT t1 t2 t3 = ((tFine * 5 + 128) / 256, tFine))

/-- R54: COMPT, the results held exactly by their registers. -/
def Obligations.ComptComputesTemperature : Prop :=
  decode 0x2000 = .ok .compt ∧
  ∀ s : State,
    (s.flag .calValid = false → exec .compt s = .next (faulted .noCal s)) ∧
    (s.flag .calValid = true → s.flag .rawValid = false → exec .compt s = .next (faulted .noRaw s)) ∧
    (s.flag .calValid = true → s.flag .rawValid = true →
      ∃ t, exec .compt s = .next t ∧
        (t.temp.toInt, t.tFine.toInt) =
          compT config.tVar1Form s.raw.adcT.toNat s.cal.digT1.toNat s.cal.digT2.toInt s.cal.digT3.toInt ∧
        t = responded (({ s with tFine := t.tFine, temp := t.temp }.setFlag .tfValid true).setFlag .tValid true))

/-- R56, with the shape of R55: COMPP, over the instance's `PRESS_BODY`. The pressure is held exactly for every `T_FINE`
in the interval it always lies in (R18); outside it see `Obligations.PressKeepsTheLowBits`. -/
def Obligations.ComppComputesPressure : Prop :=
  decode 0x2100 = .ok .compp ∧
  ∀ s : State,
    (s.flag .calValid = false → exec .compp s = .next (faulted .noCal s)) ∧
    (s.flag .calValid = true → s.flag .rawValid = false → exec .compp s = .next (faulted .noRaw s)) ∧
    (s.flag .calValid = true → s.flag .rawValid = true → s.flag .tfValid = false →
      exec .compp s = .next (faulted .noTFine s)) ∧
    (s.flag .calValid = true → s.flag .rawValid = true → s.flag .tfValid = true →
      ∃ t, exec .compp s = .next t ∧
        t = responded (({ s with press := t.press }.setFlag .pUndef (t.flag .pUndef)).setFlag .pValid true) ∧
        (let v := config.pressBody.divisor s.tFine.toInt s.cal.digP1.toNat s.cal.digP2.toInt s.cal.digP3.toInt
          s.cal.digP4.toInt s.cal.digP5.toInt s.cal.digP6.toInt
         (v.1 = 0 → t.press = 0 ∧ t.flag .pUndef = true) ∧
         (v.1 ≠ 0 → t.flag .pUndef = false ∧
           (-4194224 ≤ s.tFine.toInt → s.tFine.toInt ≤ 4194144 →
             t.press.toInt = config.pressBody.refine s.raw.adcP.toNat v.1 v.2 s.cal.digP7.toInt s.cal.digP8.toInt
               s.cal.digP9.toInt))))

/-- R72, for every `PRESS_BODY` and every other parameter: where the checks hold and the divisor is zero, COMPP and SAMPLE
respond OK with the sentinel 0, `P_UNDEF = 1`, `P_VALID = 1`, and `ERR` is not touched. -/
def Obligations.ZeroDivisorGivesTheSentinel : Prop :=
  ∀ (cfg : Config) (s t : State),
    (s.flag .calValid = true ∧ s.flag .rawValid = true ∧ s.flag .tfValid = true ∧ comppIn cfg s = .next t) ∨
      (s.flag .rbValid = true ∧ s.flag .calValid = true ∧ sampleIn cfg s = .next t) →
    (cfg.pressBody.divisor t.tFine.toInt t.cal.digP1.toNat t.cal.digP2.toInt t.cal.digP3.toInt t.cal.digP4.toInt
      t.cal.digP5.toInt t.cal.digP6.toInt).1 = 0 →
    t.output = some (.response .ok) ∧ t.press = 0 ∧ t.flag .pUndef = true ∧ t.flag .pValid = true ∧ t.err = s.err

/-- The default `PRESS_BODY` (R57, R59; a default the spec takes from general knowledge, log 3), the division written as
R10's formula. A claim about the pure function on all integers, not about the FPCE at a free `t_fine` (R65(c)). -/
def Obligations.DefaultPressureBody : Prop :=
  ∀ tFine p1 p2 p3 p4 p5 p6 adcP var1 var2 p7 p8 p9 : Int,
    (let a := tFine - 128000
     let c := a * a * p3 / 256 + a * p2 * 4096
     defaultPressBody.divisor tFine p1 p2 p3 p4 p5 p6 =
       ((140737488355328 + c) * p1 / 8589934592, a * a * p6 + a * p5 * 131072 + p4 * 34359738368)) ∧
    (var1 ≠ 0 →
      let num := ((1048576 - adcP) * 2147483648 - var2) * 3125
      let q := num.sign * var1.sign * ((num.natAbs / var1.natAbs : Nat) : Int)
      defaultPressBody.refine adcP var1 var2 p7 p8 p9 =
        (q + p9 * (q / 8192 * (q / 8192)) / 33554432 + p8 * q / 524288) / 256 + p7 * 16)

/-- With the default body the guard is taken exactly on a product in `0 .. 2^33 - 1` (R57, R58; log 3): by `dig_p1 = 0`,
or by `c = -2^47`; a product in `-2^33 .. -1` gives -1 and is divided by. A claim about the pure function (R65(c)). -/
def Obligations.DefaultDivisorVanishesExactly : Prop :=
  ∀ tFine p1 p2 p3 p4 p5 p6 : Int,
    (let product := (140737488355328 + pressC (tFine - 128000) p2 p3) * p1
     ((defaultPressBody.divisor tFine p1 p2 p3 p4 p5 p6).1 = 0 ↔ 0 ≤ product ∧ product < 8589934592) ∧
     (-8589934592 ≤ product ∧ product < 0 → (defaultPressBody.divisor tFine p1 p2 p3 p4 p5 p6).1 = -1)) ∧
    (defaultPressBody.divisor tFine 0 p2 p3 p4 p5 p6).1 = 0 ∧
    (defaultPressBody.divisor 1176576 p1 (-32768) 0 p4 p5 p6).1 = 0

/-- R61: COMPH, over the instance's `HUM_BODY` (R60). -/
def Obligations.ComphComputesHumidity : Prop :=
  decode 0x2200 = .ok .comph ∧
  ∀ s : State,
    (s.flag .calValid = false → exec .comph s = .next (faulted .noCal s)) ∧
    (s.flag .calValid = true → s.flag .rawValid = false → exec .comph s = .next (faulted .noRaw s)) ∧
    (s.flag .calValid = true → s.flag .rawValid = true → s.flag .tfValid = false →
      exec .comph s = .next (faulted .noTFine s)) ∧
    (s.flag .calValid = true → s.flag .rawValid = true → s.flag .tfValid = true →
      ∃ t, exec .comph s = .next t ∧
        ((t.hum.toNat : Int), t.flag .hClampLo, t.flag .hClampHi) =
          compH config.humBody s.raw.adcH.toNat s.tFine.toInt s.cal.digH1.toNat s.cal.digH2.toInt s.cal.digH3.toNat
            s.cal.digH4.toNat s.cal.digH5.toNat s.cal.digH6.toNat ∧
        t = responded ((({ s with hum := t.hum }.setFlag .hClampLo (t.flag .hClampLo)).setFlag .hClampHi
          (t.flag .hClampHi)).setFlag .hValid true))

/-- R63 and R73, for every `HUM_BODY` and every other parameter, where the checks hold: the clamp before the shift, both bounds inclusive, the
output in `0 .. 102400`; COMPH and SAMPLE respond OK and `ERR` is not touched. -/
def Obligations.HumidityIsClamped : Prop :=
  ∀ (cfg : Config) (s t : State),
    (s.flag .calValid = true ∧ s.flag .rawValid = true ∧ s.flag .tfValid = true ∧ comphIn cfg s = .next t) ∨
      (s.flag .rbValid = true ∧ s.flag .calValid = true ∧ sampleIn cfg s = .next t) →
    t.output = some (.response .ok) ∧
    (let x := cfg.humBody.firstStage t.raw.adcH.toNat t.tFine.toInt t.cal.digH2.toInt t.cal.digH3.toNat
       t.cal.digH4.toNat t.cal.digH5.toNat t.cal.digH6.toNat
     let y := x - cfg.humBody.correction x t.cal.digH1.toNat t.raw.adcH.toNat t.tFine.toInt t.cal.digH2.toInt
       t.cal.digH3.toNat t.cal.digH4.toNat t.cal.digH5.toNat t.cal.digH6.toNat
     (y < 0 → t.hum.toNat = 0 ∧ t.flag .hClampLo = true ∧ t.flag .hClampHi = false) ∧
     (419430400 < y → t.hum.toNat = 102400 ∧ t.flag .hClampLo = false ∧ t.flag .hClampHi = true) ∧
     (0 ≤ y → y ≤ 419430400 →
       (t.hum.toNat : Int) = y / 4096 ∧ t.flag .hClampLo = false ∧ t.flag .hClampHi = false)) ∧
    t.hum.toNat ≤ 102400 ∧ t.flag .hValid = true ∧ t.err = s.err

/-- The default `HUM_BODY` (R62; a default the spec takes from general knowledge, log 4). A claim about the pure
function (R65(c)). -/
def Obligations.DefaultHumidityBody : Prop :=
  ∀ adcH tFine h1 h2 h3 h4 h5 h6 x : Int,
    (let v := tFine - 76800
     let a := (adcH * 16384 - h4 * 1048576 - h5 * v + 16384) / 32768
     let m4 := v * h6 / 1024 * (v * h3 / 2048 + 32768) / 1024 + 2097152
     defaultHumBody.firstStage adcH tFine h2 h3 h4 h5 h6 = a * ((m4 * h2 + 8192) / 16384)) ∧
    defaultHumBody.correction x h1 adcH tFine h2 h3 h4 h5 h6 = x / 32768 * (x / 32768) / 128 * h1 / 16

/-- R64: SAMPLE has exactly the effects of UNPACK, COMPT, COMPP and COMPH in this order, as one command; after its two
checks no part can fault. -/
def Obligations.SampleEqualsTheSplitSequence : Prop :=
  decode 0x2F00 = .ok .sample ∧
  ∀ s : State,
    (s.flag .rbValid = false → exec .sample s = .next (faulted .bufferInvalid s)) ∧
    (s.flag .rbValid = true → s.flag .calValid = false → exec .sample s = .next (faulted .noCal s)) ∧
    (s.flag .rbValid = true → s.flag .calValid = true →
      ∃ s1 s2 s3 t,
        exec .unpack s = .next s1 ∧ s1.output = some (.response .ok) ∧
        exec .compt s1 = .next s2 ∧ s2.output = some (.response .ok) ∧
        exec .compp s2 = .next s3 ∧ s3.output = some (.response .ok) ∧
        exec .comph s3 = .next t ∧ t.output = some (.response .ok) ∧
        exec .sample s = .next t ∧
        t.flag .rawValid = true ∧ t.flag .tfValid = true ∧ t.flag .tValid = true ∧ t.flag .pValid = true ∧
        t.flag .hValid = true)

/-- COMPP and COMPH "may be issued in either order after COMPT" (R61, R96): the two orders end in the same state. -/
def Obligations.PressureAndHumidityCommute : Prop :=
  ∀ s : State, s.flag .calValid = true → s.flag .rawValid = true → s.flag .tfValid = true →
    ∃ p h t, exec .compp s = .next p ∧ exec .comph p = .next t ∧ exec .comph s = .next h ∧ exec .compp h = .next t

/-- "re-issuing COMPT, COMPP or COMPH with unchanged `ADC_*`, `DIG_*` (and `T_FINE`) writes bit-identical values" (R65(d)),
and so does a second SAMPLE from the same buffer (R64): the second run changes nothing. -/
def Obligations.RecomputingChangesNothing : Prop :=
  ∀ (i : Instr) (s t : State), i = .compt ∨ i = .compp ∨ i = .comph ∨ i = .sample →
    exec i s = .next t → t.output = some (.response .ok) → exec i t = .next t

/-- Each output depends on its formula's arguments alone (R65(a), (d)): `TEMP` and `T_FINE` on `ADC_T` and `DIG_T*`,
`PRESS` on `ADC_P`, `T_FINE` and `DIG_P*`, `HUM` on `ADC_H`, `T_FINE` and `DIG_H*`. -/
def Obligations.OutputsDependOnTheirArgumentsAlone : Prop :=
  (∀ s s' t t' : State, exec .compt s = .next t → exec .compt s' = .next t' →
    t.output = some (.response .ok) → t'.output = some (.response .ok) →
    (∀ r, r ∈ [Reg.adcT, .digT1, .digT2, .digT3] → s.regWord r = s'.regWord r) →
    t.temp = t'.temp ∧ t.tFine = t'.tFine) ∧
  (∀ s s' t t' : State, exec .compp s = .next t → exec .compp s' = .next t' →
    t.output = some (.response .ok) → t'.output = some (.response .ok) →
    (∀ r, r ∈ [Reg.adcP, .tFine, .digP1, .digP2, .digP3, .digP4, .digP5, .digP6, .digP7, .digP8, .digP9] →
      s.regWord r = s'.regWord r) →
    t.press = t'.press ∧ t.flag .pUndef = t'.flag .pUndef) ∧
  (∀ s s' t t' : State, exec .comph s = .next t → exec .comph s' = .next t' →
    t.output = some (.response .ok) → t'.output = some (.response .ok) →
    (∀ r, r ∈ [Reg.adcH, .tFine, .digH1, .digH2, .digH3, .digH4, .digH5, .digH6] → s.regWord r = s'.regWord r) →
    t.hum = t'.hum ∧ t.flag .hClampLo = t'.flag .hClampLo ∧ t.flag .hClampHi = t'.flag .hClampHi)

/-! ### Widths (the table of R66) -/

/-- The temperature rows of R66's table, in either form, for all inputs in their declared ranges. -/
def Obligations.TemperatureIntermediatesInRange : Prop :=
  ∀ (form : TVar1Form) (adcT t1 t2 t3 : Int),
    Within 0 adcT 1048575 → Within 0 t1 65535 → Within (-32768) t2 32767 → Within (-32768) t3 32767 →
    Within (-131070) (tempD1 adcT t1) 131071 ∧
    Within (-2097136) (tempVar1 form (tempD1 adcT t1) t2) 2097120 ∧
    Within (-4294934528) (tempD1 adcT t1 * t2) 4294901760 ∧
    Within 0 (square (tempE adcT t1)) 4294836225 ∧
    Within (-34358689792) (asr (square (tempE adcT t1)) 12 * t3) 34357641248 ∧
    Within (-2097088) (tempVar2 (tempE adcT t1) t3) 2097024 ∧
    Within (-4194224) (compT form adcT t1 t2 t3).2 4194144 ∧
    Within (-81918) (compT form adcT t1 t2 t3).1 81917

/-- The pressure rows of R66's table, for the default body (log 3) and all inputs in their ranges. A claim about the pure
function (R65(c)). -/
def Obligations.PressureIntermediatesInRange : Prop :=
  ∀ tFine adcP p1 p2 p3 p4 p5 p6 p7 p8 p9 : Int,
    Within (-4194224) tFine 4194144 → Within 0 adcP 1048575 → Within 0 p1 65535 →
    (∀ p, p ∈ [p2, p3, p4, p5, p6, p7, p8, p9] → Within (-32768) p 32767) →
    let a := pressA tFine
    let c := pressC a p2 p3
    let var1 := pressVar1 tFine p1 p2 p3
    let var2 := pressVar2 a p4 p5 p6
    let num := pressNum adcP var2
    let q := tdiv num var1
    Within (-4322224) a 4066144 ∧ Below var2 (2 ^ 60) ∧ Below c (2 ^ 52) ∧
    Within (-185504111033853050880) (pressProduct c p1) 203946951431229134745 ∧
    Within (-21595520787) var1 23742549986 ∧ Below num (2 ^ 71) ∧
    (var1 ≠ 0 →
      Below q (2 ^ 71) ∧ Below (p9 * square (asr q 13)) (2 ^ 131) ∧ Below (pressW1 q p9) (2 ^ 106) ∧
      Below (p8 * q) (2 ^ 86) ∧ Below (pressFinish q p7 p8 p9) (2 ^ 98))

/-- The humidity rows of R66's table, for the default body (log 4) and all inputs in their ranges. A claim about the pure
function (R65(c)). -/
def Obligations.HumidityIntermediatesInRange : Prop :=
  ∀ tFine adcH h1 h2 h3 h4 h5 h6 : Int,
    Within (-4194224) tFine 4194144 → Within 0 adcH 65535 → Within 0 h1 255 → Within (-32768) h2 32767 →
    Within 0 h3 255 → Within 0 h4 4095 → Within 0 h5 4095 → Within 0 h6 255 →
    let v := humV tFine
    let m1 := humM1 v h6
    let m2 := humM2 v h3
    let x := humX adcH tFine h2 h3 h4 h5 h6
    Within (-4271024) v 4117344 ∧ Within (-645582) (humA adcH v h4 h5) 566515 ∧
    Within (-580106394050) (m1 * m2) 559232433875 ∧ Within (-1128791549) (humB (humM4 m1 m2) h2) 1128825998 ∧
    Within (-728749745440836) x 728727505786518 ∧ Within 0 (square (asr x 15)) 494603246007821098681 ∧
    Within 0 (asr (square (asr x 15)) 7 * h1) 985342404156206094915 ∧
    Within (-61584629009508321768) (humUnclamped defaultHumBody adcH tFine h1 h2 h3 h4 h5 h6) 728727505786518 ∧
    Within 0 (compH defaultHumBody adcH tFine h1 h2 h3 h4 h5 h6).1 102400

/-! ### Frames and whole-machine rules -/

/-- What every command keeps (R16 to R21, columns "written by", "set by", "cleared by"; R25: no command writes `RB`):
every register, flag and byte it is not listed as writing. On a fault `ERR` may change; on OK it does not. -/
def Obligations.CommandsKeepWhatTheyDoNotWrite : Prop :=
  ∀ (i : Instr) (s t : State), exec i s = .next t →
    (∀ r, r ≠ .status → r ∉ writtenRegs i → t.regWord r = s.regWord r) ∧
    (∀ f, f ∉ writtenFlags i → t.flag f = s.flag f) ∧
    getReserved t.status = getReserved s.status ∧
    (t.output = some (.response .ok) → t.err = s.err) ∧
    (∀ a, t.rb.read a = s.rb.read a) ∧ t.actions = s.actions ∧ t.draws = s.draws

/-- Once `CAL_VALID = 1`, no step but a reset changes a constant or the flag (R16, R36, R49, R95). -/
def Obligations.CalibrationIsLockedForTheSession : Prop :=
  ∀ s t : State, step s = .next t → s.flag .calValid = true → (∀ rest, s.actions ≠ .reset :: rest) →
    t.cal = s.cal ∧ t.flag .calValid = true

/-- "`T_FINE` has no other writer" than COMPT and SAMPLE (R18, R65(b)): a step that changes it runs one of the two, or is
a reset. -/
def Obligations.OnlyTemperatureWritesTFine : Prop :=
  ∀ s t : State, step s = .next t → t.tFine ≠ s.tFine →
    ∃ a rest, s.actions = a :: rest ∧
      (a = .reset ∨ ∃ w, a = .command w ∧ (decode w = .ok .compt ∨ decode w = .ok .sample))

/-- "after UNPACK the host must issue COMPT again before COMPP or COMPH" (R96, R97; SAMPLE, which computes the temperature
too, also ends the condition). In a calibrated session UNPACK clears `TF_VALID`, and right after it COMPP and COMPH take
`Fault(7)`; no step but one that takes a COMPT or SAMPLE word sets `TF_VALID`; and while it is 0, COMPP and COMPH fault in
every state. -/
def Obligations.NewSampleInvalidatesTFine : Prop :=
  (∀ s : State, s.flag .rbValid = true → s.flag .calValid = true →
    ∃ t p h, exec .unpack s = .next t ∧ exec .compp t = .next p ∧ exec .comph t = .next h ∧
      p.output = some (.response (.fault .noTFine)) ∧ h.output = some (.response (.fault .noTFine)) ∧
      t.regValid .temp = false ∧ t.regValid .press = false ∧ t.regValid .hum = false ∧ t.regValid .tFine = false) ∧
  (∀ s t : State, step s = .next t → s.flag .tfValid = false →
    (∀ w rest, s.actions = .command w :: rest → decode w ≠ .ok .compt ∧ decode w ≠ .ok .sample) →
    t.flag .tfValid = false) ∧
  ∀ (s t : State) (i : Instr), i = .compp ∨ i = .comph → exec i s = .next t → s.flag .tfValid = false →
    ∃ c, t.output = some (.response (.fault c)) ∧
      (s.flag .calValid = true → s.flag .rawValid = true → c = .noTFine)

/-! ### The host's moves -/

/-- `@RESET` (R86, R87): `STATUS` is 0, so no data register is valid. Two clauses are the model's: that `RB`, which R87
leaves unspecified, lists no byte (log 8), and that the host's later actions stay (log 11, DEDUCED). -/
def Obligations.ResetInvalidatesEverything : Prop :=
  ∀ (s : State) (rest : List HostAction), s.actions = .reset :: rest →
    ∃ t, step s = .next t ∧ t.status = 0 ∧ (∀ r, r ≠ .status → t.regValid r = false) ∧
      (∀ a, t.rb.read a = none) ∧ t.actions = rest

/-- R26: `LoadBuffer`. -/
def Obligations.LoadReplacesTheBuffer : Prop :=
  ∀ (s : State) (bytes : List Byte) (rest : List HostAction), s.actions = .load bytes :: rest →
    ∃ t, step s = .next t ∧
      (bytes.length = 0x100 - config.rbBase →
        ∀ a, config.rbBase ≤ a → a ≤ 0xFF → t.rb.read a = bytes[a - config.rbBase]?) ∧
      t = { s with actions := rest, rb := t.rb,
                   status := putFlag s.status .rbValid (decide (bytes.length = 0x100 - config.rbBase)) }

/-- R22: the read port. A valid register reads as its value under its type, on 128 bits; one whose flag is 0 as some word;
an index outside the table as 0; nothing but the output changes (and the model's count of free values, log 9). -/
def Obligations.ReadPortPresentsRegisters : Prop :=
  ∀ (s : State) (rest : List HostAction),
    (∀ idx r, (idx, r) ∈ readPortTable → s.actions = .read idx :: rest → s.regValid r = true →
      step s = .next { s with actions := rest, output := some (.data (BitVec.ofInt 128 (registerValue s r))) }) ∧
    (∀ idx r, (idx, r) ∈ readPortTable → s.actions = .read idx :: rest → s.regValid r = false →
      ∃ w, step s = .next { s with actions := rest, output := some (.data w), draws := s.draws + 1 }) ∧
    (∀ idx, idx ∉ readPortTable.map Prod.fst → s.actions = .read idx :: rest →
      step s = .next { s with actions := rest, output := some (.data 0) })

/-- The layout of `STATUS` (R21), as the read port shows it. -/
def Obligations.StatusLayout : Prop :=
  ∀ s : State,
    (s.regWord .status).getLsbD 0 = s.flag .rbValid ∧ (s.regWord .status).getLsbD 1 = s.flag .calValid ∧
    (s.regWord .status).getLsbD 2 = s.flag .rawValid ∧ (s.regWord .status).getLsbD 3 = s.flag .tfValid ∧
    (s.regWord .status).getLsbD 4 = s.flag .tValid ∧ (s.regWord .status).getLsbD 5 = s.flag .pValid ∧
    (s.regWord .status).getLsbD 6 = s.flag .hValid ∧ (s.regWord .status).getLsbD 7 = s.flag .resValid ∧
    (s.regWord .status).getLsbD 8 = s.flag .pUndef ∧ (s.regWord .status).getLsbD 9 = s.flag .hClampLo ∧
    (s.regWord .status).getLsbD 10 = s.flag .hClampHi ∧ (s.regWord .status).extractLsb' 12 4 = s.err

/-- The defaults of the parameters (R7, R27; the instance `exec` runs, log 1 to log 4) are a well-formed configuration
(R27, R55, R60). -/
def Obligations.DefaultConfigurationIsWellFormed : Prop :=
  config.wellFormed = true ∧ rbLen config = 120 ∧ config.tVar1Form = .literal ∧
  config.pressBody = defaultPressBody ∧ config.humBody = defaultHumBody ∧
  config.addrMap.fields =
    [(0x88, 2), (0x8A, 2), (0x8C, 2), (0x8E, 2), (0x90, 2), (0x92, 2), (0x94, 2), (0x96, 2), (0x98, 2), (0x9A, 2),
     (0x9C, 2), (0x9E, 2), (0xA1, 1), (0xE1, 2), (0xE3, 1), (0xE4, 3), (0xE7, 1), (0xF7, 3), (0xFA, 3), (0xFD, 2)]

/-! ### Invariants -/

/-- Reset meets the invariant. -/
def Obligations.ResetMeetsTheInvariant : Prop := State.reset.Inv

/-- Every step keeps the RegisterBuffer in order (R15, R24 to R26): canonical, inside the address space, and whole under
`RB_VALID`. -/
def Obligations.StepKeepsTheBufferInOrder : Prop :=
  ∀ s t : State, s.BufferInOrder config → step s = .next t → t.BufferInOrder config

/-- Every step keeps the fields of `STATUS` in order (R21, R18, R95 to R97): bit 11 reads 0, `ERR` is at most 7, and no
flag outruns those it rests on. -/
def Obligations.StepKeepsStatusInOrder : Prop :=
  ∀ s t : State, s.StatusInOrder → step s = .next t → t.StatusInOrder

/-- Every step keeps the outputs coherent (R18, R65(b), R97): a valid output is its formula's exact value on the current
RawSample and CalibrationSet. With the default bodies (log 3, log 4), whose values fit the registers (R66). -/
def Obligations.StepKeepsOutputsCoherent : Prop :=
  ∀ s t : State, s.StatusInOrder → s.OutputsCoherent config → step s = .next t → t.OutputsCoherent config

/-- In every reachable state the invariant holds: in particular a valid `PRESS` or `HUM` was computed from the `t_fine`
of the current RawSample (R65, R97). -/
def Obligations.ReachableStatesMeetTheInvariant : Prop :=
  ∀ s : State, Reachable s → s.Inv

/-- In a state that meets the invariant a valid humidity is a percentage (R63, R67), and a temperature lies within R66's
interval. -/
def Obligations.ValidOutputsArePhysicalQuantities : Prop :=
  ∀ s : State, s.Inv →
    (s.flag .hValid = true → 0 ≤ s.percentHumidity ∧ s.percentHumidity ≤ 100) ∧
    (s.flag .tValid = true → -81918 / 100 ≤ s.degreesCelsius ∧ s.degreesCelsius ≤ 81917 / 100) ∧
    (s.flag .pValid = true → s.flag .pUndef = true → s.press = 0 ∧ s.millibar = none)

/-- What the spec leaves unspecified is never observed (R87; U1, U6): two states that agree on all that is specified step
to states that agree on it, so no output, no flag and no valid register ever depends on an unspecified value. The values
the model's reset names (log 7) are such values. -/
def Obligations.UnspecifiedValuesAreNeverObserved : Prop :=
  ∀ s s' t : State, AgreeOnSpecified s s' → step s = .next t →
    ∃ t', step s' = .next t' ∧ AgreeOnSpecified t t'

/-- COMPP in every instance and for every `T_FINE`: `PRESS` keeps the low 128 bits of `CompP`'s value. That is the model's
choice (log 13, DESIGN CHOICE); where the value fits, `PRESS` is the value, as R56 says. -/
def Obligations.PressKeepsTheLowBits : Prop :=
  ∀ (cfg : Config) (s : State), s.flag .calValid = true → s.flag .rawValid = true → s.flag .tfValid = true →
    ∃ t, comppIn cfg s = .next t ∧ t.press = BitVec.ofInt 128 (compPOf cfg s.raw s.tFine s.cal).1 ∧
      (-(2 ^ 127) ≤ (compPOf cfg s.raw s.tFine s.cal).1 → (compPOf cfg s.raw s.tFine s.cal).1 < 2 ^ 127 →
        t.press.toInt = (compPOf cfg s.raw s.tFine s.cal).1)
end

