-- ==== Sys2Proof/Laws/Arith.lean ====
section
/-! SUPPORT. The operators of R10 and R11: floor shifts are monotone and bounded by their ends, the truncating division is
the rule's formula, and sign extension is the two's-complement reading of a pattern. -/

namespace Sys2Proof.Machine

/-- `a >> n` is the greatest integer not above `a / 2^n` (R10). -/
theorem le_asr_iff (k a : Int) (n : Nat) : k ≤ asr a n ↔ k * 2 ^ n ≤ a :=
  Int.le_ediv_iff_mul_le (by positivity)

theorem asr_lt_iff (a k : Int) (n : Nat) : asr a n < k ↔ a < k * 2 ^ n :=
  Int.ediv_lt_iff_lt_mul (by positivity)

theorem asr_mono {a b : Int} (n : Nat) (h : a ≤ b) : asr a n ≤ asr b n :=
  Int.ediv_le_ediv (by positivity) h

/-- A shifted value lies between the shifted ends of its interval. -/
theorem asr_between {lo a hi : Int} (n : Nat) (h : lo ≤ a ∧ a ≤ hi) : asr lo n ≤ asr a n ∧ asr a n ≤ asr hi n :=
  ⟨asr_mono n h.1, asr_mono n h.2⟩

/-- A product lies within the product of the bounds of its factors' magnitudes. -/
theorem abs_mul_le {a b A B : Int} (ha : |a| ≤ A) (hb : |b| ≤ B) : |a * b| ≤ A * B := by
  rw [abs_mul]
  exact mul_le_mul ha hb (abs_nonneg b) (le_trans (abs_nonneg a) ha)

theorem square_nonneg (a : Int) : 0 ≤ square a := mul_self_nonneg a

theorem square_le {a A : Int} (h : |a| ≤ A) : square a ≤ A * A := by
  have := abs_mul_le h h
  exact le_trans (le_abs_self _) this

/-- `tdiv(a, b) = sign(a) * sign(b) * floor(|a| / |b|)` (R10). -/
theorem tdiv_eq_sign_mul (a b : Int) : tdiv a b = a.sign * b.sign * ((a.natAbs / b.natAbs : Nat) : Int) := by
  rw [tdiv]
  have key : ∀ m n : Nat, Int.tdiv m n = Int.sign m * Int.sign n * ((m / n : Nat) : Int) := by
    intro m n
    rcases m with _ | m
    · simp
    rcases n with _ | n
    · simp
    rw [Int.sign_eq_one_of_pos (by positivity), Int.sign_eq_one_of_pos (by positivity), Int.ofNat_tdiv]
    ring
  obtain ⟨m, rfl | rfl⟩ := Int.eq_nat_or_neg a <;> obtain ⟨n, rfl | rfl⟩ := Int.eq_nat_or_neg b <;>
    simp only [Int.neg_tdiv, Int.tdiv_neg, Int.sign_neg, Int.natAbs_neg, Int.natAbs_natCast, key, neg_mul, mul_neg,
      neg_neg]

/-- The quotient of a non-zero division is no larger than the dividend. -/
theorem natAbs_tdiv_le (a b : Int) : (tdiv a b).natAbs ≤ a.natAbs := by
  rw [tdiv, Int.natAbs_tdiv]
  exact Nat.div_le_self _ _

/-- `sext_N(v)` is the two's-complement reading of the pattern `v` (R11). -/
theorem sext_eq_toInt {n v : Nat} (hn : 0 < n) (hv : v < 2 ^ n) : sext n v = (BitVec.ofNat n v).toInt := by
  obtain ⟨m, rfl⟩ : ∃ m, n = m + 1 := ⟨n - 1, by omega⟩
  rw [BitVec.toInt_eq_toNat_cond, BitVec.toNat_ofNat, Nat.mod_eq_of_lt hv, sext]
  have h2 : 2 ^ (m + 1) = 2 * 2 ^ m := by ring
  simp only [Nat.add_sub_cancel, h2] at *
  split <;> split <;> first | omega | (push_cast; ring_nf)

end Sys2Proof.Machine
end

