-- ==== Sys2Proof/Laws/Decode.lean ====
section
/-! SUPPORT. The fields of a word put together from them, and the row a word selects by its operation code
(spec/30_encoding.md R38, R40). -/

namespace Sys2Proof

@[simp] theorem opcOf_assembleWord (opc arg : Byte) : opcOf (assembleWord opc arg) = opc := by
  ext i hi
  simp only [opcOf, assembleWord, BitVec.getElem_extractLsb', BitVec.getLsbD_append]
  rw [if_neg (by omega), Nat.add_sub_cancel_left, BitVec.getLsbD_eq_getElem hi]

@[simp] theorem argOf_assembleWord (opc arg : Byte) : argOf (assembleWord opc arg) = arg := by
  ext i hi
  simp only [argOf, assembleWord, BitVec.getElem_extractLsb', BitVec.getLsbD_append, Nat.zero_add]
  rw [if_pos (by omega), BitVec.getLsbD_eq_getElem hi]

/-- A word is its operation code and its operand (R38). -/
theorem assembleWord_fields (w : CmdWord) : assembleWord (opcOf w) (argOf w) = w := by
  apply BitVec.eq_of_getLsbD_eq
  intro i hi
  simp only [opcOf, argOf, assembleWord, BitVec.getLsbD_append, BitVec.getLsbD_extractLsb', Nat.zero_add]
  by_cases h : i < 8
  · simp [h]
  · have h8 : i - 8 < 8 ∧ 8 + (i - 8) = i := by omega
    simp [h, h8]

/-- A row with the mask of an operand is selected by its operation code alone. -/
theorem and_opcode_mask (opc arg : Byte) : assembleWord opc arg &&& 0xFF00 = assembleWord opc 0 := by
  apply BitVec.eq_of_getLsbD_eq
  intro i hi
  have hmask : (0xFF00 : CmdWord) = assembleWord (BitVec.allOnes 8) 0 := by decide
  rw [hmask]
  simp only [assembleWord, BitVec.getLsbD_and, BitVec.getLsbD_append]
  by_cases h : i < 8
  · simp [h]
  · have h8 : i - 8 < 8 := by omega
    rw [if_neg h, if_neg h, if_neg h, BitVec.getLsbD_allOnes, decide_eq_true h8, Bool.and_true]

theorem assembleWord_injective {opc arg opc' arg' : Byte} (h : assembleWord opc arg = assembleWord opc' arg') :
    opc = opc' ∧ arg = arg' :=
  ⟨by rw [← opcOf_assembleWord opc arg, h, opcOf_assembleWord], by rw [← argOf_assembleWord opc arg, h, argOf_assembleWord]⟩

/-- A row with an operand is selected by its operation code. -/
theorem selects_operand_row (m : String) (opc₀ : Byte) (build : Byte → Instr) (opc arg : Byte) :
    (OpcodeRow.mk m (assembleWord opc₀ 0) 0xFF00 build).selects (assembleWord opc arg) = decide (opc = opc₀) := by
  simp only [OpcodeRow.selects, and_opcode_mask]
  rw [Bool.eq_iff_iff, beq_iff_eq, decide_eq_true_iff]
  exact ⟨fun h => (assembleWord_injective h).1, fun h => by rw [h]⟩

/-- A row without operand is selected by its operation code and `ARG = 0x00`. -/
theorem selects_plain_row (m : String) (opc₀ : Byte) (build : Byte → Instr) (opc arg : Byte) :
    (OpcodeRow.mk m (assembleWord opc₀ 0) 0xFFFF build).selects (assembleWord opc arg) =
      decide (opc = opc₀ ∧ arg = 0) := by
  have hones : (0xFFFF : CmdWord) = BitVec.allOnes 16 := by decide
  simp only [OpcodeRow.selects, hones, BitVec.and_allOnes]
  rw [Bool.eq_iff_iff, beq_iff_eq, decide_eq_true_iff]
  exact ⟨assembleWord_injective, fun h => by rw [h.1, h.2]⟩

/-- The opcode map with its patterns as words of an operation code and a zero operand. -/
theorem opcodeMap_eq : opcodeMap =
    [⟨"RDU16", assembleWord 0x01 0, 0xFF00, fun arg => .rdu16 arg.toNat⟩,
     ⟨"RDS16", assembleWord 0x02 0, 0xFF00, fun arg => .rds16 arg.toNat⟩,
     ⟨"LDCAL", assembleWord 0x10 0, 0xFFFF, fun _ => .ldcal⟩,
     ⟨"UNPACK", assembleWord 0x11 0, 0xFFFF, fun _ => .unpack⟩,
     ⟨"COMPT", assembleWord 0x20 0, 0xFFFF, fun _ => .compt⟩,
     ⟨"COMPP", assembleWord 0x21 0, 0xFFFF, fun _ => .compp⟩,
     ⟨"COMPH", assembleWord 0x22 0, 0xFFFF, fun _ => .comph⟩,
     ⟨"SAMPLE", assembleWord 0x2F 0, 0xFFFF, fun _ => .sample⟩] := rfl

/-- The decoder on the two fields of a word: one case per row of the map (R40), and illegal (R42). -/
theorem decode_assembleWord (opc arg : Byte) :
    decode (assembleWord opc arg) =
      if opc = 0x01 then .ok (.rdu16 arg.toNat)
      else if opc = 0x02 then .ok (.rds16 arg.toNat)
      else if opc = 0x10 ∧ arg = 0 then .ok .ldcal
      else if opc = 0x11 ∧ arg = 0 then .ok .unpack
      else if opc = 0x20 ∧ arg = 0 then .ok .compt
      else if opc = 0x21 ∧ arg = 0 then .ok .compp
      else if opc = 0x22 ∧ arg = 0 then .ok .comph
      else if opc = 0x2F ∧ arg = 0 then .ok .sample
      else .error (rejectReason (assembleWord opc arg)) := by
  rw [decode, opcodeMap_eq]
  simp only [selectRow, selects_operand_row, selects_plain_row, decide_eq_true_eq, argOf_assembleWord]
  split_ifs <;> rfl

end Sys2Proof
end

