-- ==== Sys2Proof/Laws/Flags.lean ====
section
/-! SUPPORT. Reading back what is written to `STATUS`: each field alone, every other field kept (spec/10_state.md R21). -/

namespace Sys2Proof.Machine

theorem Flag.bit_lt (f : Flag) : f.bit < 11 := by cases f <;> decide

theorem Flag.bit_injective {f g : Flag} (h : f.bit = g.bit) : f = g := by
  cases f <;> cases g <;> first | rfl | exact absurd h (by decide)

/-- One bit of a status word after a flag is written. -/
theorem getLsbD_putFlag (st : BitVec 16) (f : Flag) (b : Bool) (i : Nat) :
    (putFlag st f b).getLsbD i = if i = f.bit then b else st.getLsbD i := by
  have hf := f.bit_lt
  by_cases hi : i < 16
  · by_cases h : i = f.bit
    · subst h
      cases b <;> simp [putFlag, hi]
    · cases b <;> simp [putFlag, hi, h]
  · have h : i ≠ f.bit := by omega
    rw [if_neg h, BitVec.getLsbD_of_ge _ i (by omega), BitVec.getLsbD_of_ge _ i (by omega)]

@[simp] theorem getFlag_putFlag (st : BitVec 16) (f g : Flag) (b : Bool) :
    getFlag (putFlag st f b) g = if g = f then b else getFlag st g := by
  by_cases h : g = f
  · simp [getFlag, getLsbD_putFlag, h]
  · have hb : g.bit ≠ f.bit := fun e => h (Flag.bit_injective e)
    simp [getFlag, getLsbD_putFlag, h, hb]

@[simp] theorem getErr_putFlag (st : BitVec 16) (f : Flag) (b : Bool) : getErr (putFlag st f b) = getErr st := by
  ext i hi
  have hf := f.bit_lt
  have h : 12 + i ≠ f.bit := by omega
  simp [getErr, getLsbD_putFlag, h]

@[simp] theorem reserved_putFlag (st : BitVec 16) (f : Flag) (b : Bool) :
    getReserved (putFlag st f b) = getReserved st := by
  have hf := f.bit_lt
  have h : 11 ≠ f.bit := by omega
  rw [getReserved, getLsbD_putFlag, if_neg h, getReserved]

/-- One bit of a status word after `ERR` is written. -/
theorem getLsbD_putErr (st : BitVec 16) (c : BitVec 4) (i : Nat) :
    (putErr st c).getLsbD i = if i < 12 then st.getLsbD i else c.getLsbD (i - 12) := by
  rw [putErr, BitVec.getLsbD_append]
  by_cases h : i < 12 <;> simp [h]

@[simp] theorem getFlag_putErr (st : BitVec 16) (c : BitVec 4) (f : Flag) : getFlag (putErr st c) f = getFlag st f := by
  have hf := f.bit_lt
  have h : f.bit < 12 := by omega
  simp [getFlag, getLsbD_putErr, h]

@[simp] theorem getErr_putErr (st : BitVec 16) (c : BitVec 4) : getErr (putErr st c) = c := by
  ext i hi
  have h : ¬ 12 + i < 12 := by omega
  simp [getErr, getLsbD_putErr, h, BitVec.getLsbD_eq_getElem hi]

@[simp] theorem reserved_putErr (st : BitVec 16) (c : BitVec 4) : getReserved (putErr st c) = getReserved st := by
  rw [getReserved, getLsbD_putErr, if_pos (by decide), getReserved]

/-- A status word is its flags, its reserved bit and its `ERR`. -/
theorem status_ext {a b : BitVec 16} (hf : ∀ f, getFlag a f = getFlag b f) (hr : getReserved a = getReserved b)
    (he : getErr a = getErr b) : a = b := by
  have he' : ∀ j, j < 4 → a.getLsbD (12 + j) = b.getLsbD (12 + j) := by
    intro j hj
    have h : (getErr a).getLsbD j = (getErr b).getLsbD j := by rw [he]
    rwa [getErr, getErr, BitVec.getLsbD_extractLsb', BitVec.getLsbD_extractLsb', decide_eq_true hj, Bool.true_and,
      Bool.true_and] at h
  apply BitVec.eq_of_getLsbD_eq
  intro i hi
  match i, hi with
  | 0, _ => exact hf .rbValid
  | 1, _ => exact hf .calValid
  | 2, _ => exact hf .rawValid
  | 3, _ => exact hf .tfValid
  | 4, _ => exact hf .tValid
  | 5, _ => exact hf .pValid
  | 6, _ => exact hf .hValid
  | 7, _ => exact hf .resValid
  | 8, _ => exact hf .pUndef
  | 9, _ => exact hf .hClampLo
  | 10, _ => exact hf .hClampHi
  | 11, _ => exact hr
  | 12, _ => exact he' 0 (by decide)
  | 13, _ => exact he' 1 (by decide)
  | 14, _ => exact he' 2 (by decide)
  | 15, _ => exact he' 3 (by decide)
  | n + 16, h => exact absurd h (by omega)

theorem FaultCode.code_ne_zero (c : FaultCode) : c.code ≠ 0 := by cases c <;> decide

theorem FaultCode.code_le_seven (c : FaultCode) : c.code.toNat ≤ 7 := by cases c <;> decide

end Sys2Proof.Machine
end

