-- ==== Sys2Proof/Laws/State.lean ====
section
/-! SUPPORT. One lemma per field per named update of the state, true by rfl, and the flags and `ERR` after each. -/

namespace Sys2Proof.Machine

@[simp] theorem State.setFlag_rb (s : State) (f : Flag) (b : Bool) : (s.setFlag f b).rb = s.rb := rfl
@[simp] theorem State.setFlag_status (s : State) (f : Flag) (b : Bool) : (s.setFlag f b).status = putFlag s.status f b := rfl
@[simp] theorem State.setFlag_cal (s : State) (f : Flag) (b : Bool) : (s.setFlag f b).cal = s.cal := rfl
@[simp] theorem State.setFlag_raw (s : State) (f : Flag) (b : Bool) : (s.setFlag f b).raw = s.raw := rfl
@[simp] theorem State.setFlag_tFine (s : State) (f : Flag) (b : Bool) : (s.setFlag f b).tFine = s.tFine := rfl
@[simp] theorem State.setFlag_temp (s : State) (f : Flag) (b : Bool) : (s.setFlag f b).temp = s.temp := rfl
@[simp] theorem State.setFlag_press (s : State) (f : Flag) (b : Bool) : (s.setFlag f b).press = s.press := rfl
@[simp] theorem State.setFlag_hum (s : State) (f : Flag) (b : Bool) : (s.setFlag f b).hum = s.hum := rfl
@[simp] theorem State.setFlag_res (s : State) (f : Flag) (b : Bool) : (s.setFlag f b).res = s.res := rfl
@[simp] theorem State.setFlag_actions (s : State) (f : Flag) (b : Bool) : (s.setFlag f b).actions = s.actions := rfl
@[simp] theorem State.setFlag_output (s : State) (f : Flag) (b : Bool) : (s.setFlag f b).output = s.output := rfl
@[simp] theorem State.setFlag_draws (s : State) (f : Flag) (b : Bool) : (s.setFlag f b).draws = s.draws := rfl

@[simp] theorem State.setErr_rb (s : State) (c : BitVec 4) : (s.setErr c).rb = s.rb := rfl
@[simp] theorem State.setErr_status (s : State) (c : BitVec 4) : (s.setErr c).status = putErr s.status c := rfl
@[simp] theorem State.setErr_cal (s : State) (c : BitVec 4) : (s.setErr c).cal = s.cal := rfl
@[simp] theorem State.setErr_raw (s : State) (c : BitVec 4) : (s.setErr c).raw = s.raw := rfl
@[simp] theorem State.setErr_tFine (s : State) (c : BitVec 4) : (s.setErr c).tFine = s.tFine := rfl
@[simp] theorem State.setErr_temp (s : State) (c : BitVec 4) : (s.setErr c).temp = s.temp := rfl
@[simp] theorem State.setErr_press (s : State) (c : BitVec 4) : (s.setErr c).press = s.press := rfl
@[simp] theorem State.setErr_hum (s : State) (c : BitVec 4) : (s.setErr c).hum = s.hum := rfl
@[simp] theorem State.setErr_res (s : State) (c : BitVec 4) : (s.setErr c).res = s.res := rfl
@[simp] theorem State.setErr_actions (s : State) (c : BitVec 4) : (s.setErr c).actions = s.actions := rfl
@[simp] theorem State.setErr_output (s : State) (c : BitVec 4) : (s.setErr c).output = s.output := rfl
@[simp] theorem State.setErr_draws (s : State) (c : BitVec 4) : (s.setErr c).draws = s.draws := rfl

@[simp] theorem State.answer_rb (s : State) (o : Output) : (s.answer o).rb = s.rb := rfl
@[simp] theorem State.answer_status (s : State) (o : Output) : (s.answer o).status = s.status := rfl
@[simp] theorem State.answer_cal (s : State) (o : Output) : (s.answer o).cal = s.cal := rfl
@[simp] theorem State.answer_raw (s : State) (o : Output) : (s.answer o).raw = s.raw := rfl
@[simp] theorem State.answer_tFine (s : State) (o : Output) : (s.answer o).tFine = s.tFine := rfl
@[simp] theorem State.answer_temp (s : State) (o : Output) : (s.answer o).temp = s.temp := rfl
@[simp] theorem State.answer_press (s : State) (o : Output) : (s.answer o).press = s.press := rfl
@[simp] theorem State.answer_hum (s : State) (o : Output) : (s.answer o).hum = s.hum := rfl
@[simp] theorem State.answer_res (s : State) (o : Output) : (s.answer o).res = s.res := rfl
@[simp] theorem State.answer_actions (s : State) (o : Output) : (s.answer o).actions = s.actions := rfl
@[simp] theorem State.answer_output (s : State) (o : Output) : (s.answer o).output = some o := rfl
@[simp] theorem State.answer_draws (s : State) (o : Output) : (s.answer o).draws = s.draws := rfl

/-! The flags, `ERR` and the reserved bit -/

theorem State.flag_eq (s : State) (f : Flag) : s.flag f = getFlag s.status f := rfl

theorem State.err_eq (s : State) : s.err = getErr s.status := rfl

@[simp] theorem State.flag_setFlag (s : State) (f g : Flag) (b : Bool) :
    (s.setFlag f b).flag g = if g = f then b else s.flag g := by simp [State.flag]

@[simp] theorem State.err_setFlag (s : State) (f : Flag) (b : Bool) : (s.setFlag f b).err = s.err := by simp [State.err]

@[simp] theorem State.flag_setErr (s : State) (c : BitVec 4) (f : Flag) : (s.setErr c).flag f = s.flag f := by
  simp [State.flag]

@[simp] theorem State.err_setErr (s : State) (c : BitVec 4) : (s.setErr c).err = c := by simp [State.err]

@[simp] theorem State.flag_answer (s : State) (o : Output) (f : Flag) : (s.answer o).flag f = s.flag f := rfl

@[simp] theorem State.err_answer (s : State) (o : Output) : (s.answer o).err = s.err := rfl

/-! Taking a fault (R76) -/

@[simp] theorem raiseFault_rb (c : FaultCode) (s : State) : (raiseFault c s).rb = s.rb := by
  unfold raiseFault; split <;> rfl
@[simp] theorem raiseFault_cal (c : FaultCode) (s : State) : (raiseFault c s).cal = s.cal := by
  unfold raiseFault; split <;> rfl
@[simp] theorem raiseFault_raw (c : FaultCode) (s : State) : (raiseFault c s).raw = s.raw := by
  unfold raiseFault; split <;> rfl
@[simp] theorem raiseFault_tFine (c : FaultCode) (s : State) : (raiseFault c s).tFine = s.tFine := by
  unfold raiseFault; split <;> rfl
@[simp] theorem raiseFault_temp (c : FaultCode) (s : State) : (raiseFault c s).temp = s.temp := by
  unfold raiseFault; split <;> rfl
@[simp] theorem raiseFault_press (c : FaultCode) (s : State) : (raiseFault c s).press = s.press := by
  unfold raiseFault; split <;> rfl
@[simp] theorem raiseFault_hum (c : FaultCode) (s : State) : (raiseFault c s).hum = s.hum := by
  unfold raiseFault; split <;> rfl
@[simp] theorem raiseFault_res (c : FaultCode) (s : State) : (raiseFault c s).res = s.res := by
  unfold raiseFault; split <;> rfl
@[simp] theorem raiseFault_actions (c : FaultCode) (s : State) : (raiseFault c s).actions = s.actions := by
  unfold raiseFault; split <;> rfl
@[simp] theorem raiseFault_draws (c : FaultCode) (s : State) : (raiseFault c s).draws = s.draws := by
  unfold raiseFault; split <;> rfl
@[simp] theorem raiseFault_output (c : FaultCode) (s : State) :
    (raiseFault c s).output = some (.response (.fault c)) := rfl

theorem raiseFault_status (c : FaultCode) (s : State) :
    (raiseFault c s).status = if s.err = 0 then putErr s.status c.code else s.status := by
  unfold raiseFault; split <;> rfl

@[simp] theorem raiseFault_flag (c : FaultCode) (s : State) (f : Flag) : (raiseFault c s).flag f = s.flag f := by
  unfold raiseFault; split <;> simp

/-- `ERR` after a fault: the first code is kept (R76). -/
theorem raiseFault_err (c : FaultCode) (s : State) : (raiseFault c s).err = if s.err = 0 then c.code else s.err := by
  unfold raiseFault; split <;> simp

@[simp] theorem raiseFault_reserved (c : FaultCode) (s : State) :
    getReserved (raiseFault c s).status = getReserved s.status := by
  unfold raiseFault; split <;> simp

end Sys2Proof.Machine
end

