-- ==== Sys2Proof/Laws/Ops.lean ====
section
/-! SUPPORT. What taking a fault and running a command can do (spec/30_encoding.md R45; spec/60_exceptions.md R71, R76). -/

namespace Sys2Proof.Machine

@[simp] theorem firstFailing_nil : firstFailing [] = none := rfl

@[simp] theorem firstFailing_cons (b : Bool) (c : FaultCode) (rest : List (Bool × FaultCode)) :
    firstFailing ((b, c) :: rest) = if b then firstFailing rest else some c := rfl

/-- All that taking a fault changes (R76). -/
theorem raiseFault_eq (c : FaultCode) (s : State) :
    raiseFault c s = { s with status := if s.err = 0 then putErr s.status c.code else s.status,
                              output := some (.response (.fault c)) } := by
  unfold raiseFault; split <;> rfl

/-- A command whose checks all hold has its whole effect and responds OK. -/
theorem runCommand_ok {checks : List (Bool × FaultCode)} (effect : State → State) {s : State}
    (h : firstFailing checks = none) : runCommand checks effect s = .next ((effect s).answer (.response .ok)) := by
  rw [runCommand, h]

/-- A command with a failing check takes the first failing check's fault. -/
theorem runCommand_fault {checks : List (Bool × FaultCode)} (effect : State → State) {s : State} {c : FaultCode}
    (h : firstFailing checks = some c) : runCommand checks effect s = .next (raiseFault c s) := by
  rw [runCommand, h]

/-- The two ways a command can end. -/
theorem runCommand_cases {checks : List (Bool × FaultCode)} {effect : State → State} {s t : State}
    (h : runCommand checks effect s = .next t) :
    (∃ c, firstFailing checks = some c ∧ t = raiseFault c s) ∨
      (firstFailing checks = none ∧ t = (effect s).answer (.response .ok)) := by
  unfold runCommand at h
  split at h <;> injection h with h
  · exact .inl ⟨_, ‹_›, h.symm⟩
  · exact .inr ⟨‹_›, h.symm⟩

/-- A command always ends. -/
theorem runCommand_completes (checks : List (Bool × FaultCode)) (effect : State → State) (s : State) :
    ∃ t, runCommand checks effect s = .next t := by
  unfold runCommand
  split <;> exact ⟨_, rfl⟩

end Sys2Proof.Machine
end

