-- ==== Sys2Proof/Laws/Effects.lean ====
section
/-! SUPPORT. What each command's effect writes, field by field, and that it writes nothing else (spec/40_decoder.md,
spec/41_compensation.md, the lines "Flags written"). Flags are given by one equation per effect. -/

namespace Sys2Proof.Machine

/-- The flags that belong to one RawSample (R51, R97). -/
def Flag.ofSample : Flag → Bool
  | .tfValid | .tValid | .pValid | .hValid | .pUndef | .hClampLo | .hClampHi => true
  | .rbValid | .calValid | .rawValid | .resValid => false

/-! ### RDU16, RDS16: `RES`, `RES_VALID` -/

@[simp] theorem setResult_rb (v : Int) (s : State) : (setResult v s).rb = s.rb := rfl
@[simp] theorem setResult_cal (v : Int) (s : State) : (setResult v s).cal = s.cal := rfl
@[simp] theorem setResult_raw (v : Int) (s : State) : (setResult v s).raw = s.raw := rfl
@[simp] theorem setResult_tFine (v : Int) (s : State) : (setResult v s).tFine = s.tFine := rfl
@[simp] theorem setResult_temp (v : Int) (s : State) : (setResult v s).temp = s.temp := rfl
@[simp] theorem setResult_press (v : Int) (s : State) : (setResult v s).press = s.press := rfl
@[simp] theorem setResult_hum (v : Int) (s : State) : (setResult v s).hum = s.hum := rfl
@[simp] theorem setResult_res (v : Int) (s : State) : (setResult v s).res = BitVec.ofInt 32 v := rfl
@[simp] theorem setResult_actions (v : Int) (s : State) : (setResult v s).actions = s.actions := rfl
@[simp] theorem setResult_output (v : Int) (s : State) : (setResult v s).output = s.output := rfl
@[simp] theorem setResult_draws (v : Int) (s : State) : (setResult v s).draws = s.draws := rfl

@[simp] theorem setResult_err (v : Int) (s : State) : (setResult v s).err = s.err := by
  simp [setResult, State.err]

@[simp] theorem setResult_reserved (v : Int) (s : State) : getReserved (setResult v s).status = getReserved s.status := by
  simp [setResult]

@[simp] theorem setResult_flag (v : Int) (s : State) (f : Flag) :
    (setResult v s).flag f = if f = .resValid then true else s.flag f := by
  simp [setResult, State.flag]

/-! ### LDCAL: `DIG_*`, `CAL_VALID` -/

@[simp] theorem ldcalEffect_rb (cfg : Config) (s : State) : (ldcalEffect cfg s).rb = s.rb := rfl
@[simp] theorem ldcalEffect_cal (cfg : Config) (s : State) : (ldcalEffect cfg s).cal = decodeCalibration cfg.addrMap s := rfl
@[simp] theorem ldcalEffect_raw (cfg : Config) (s : State) : (ldcalEffect cfg s).raw = s.raw := rfl
@[simp] theorem ldcalEffect_tFine (cfg : Config) (s : State) : (ldcalEffect cfg s).tFine = s.tFine := rfl
@[simp] theorem ldcalEffect_temp (cfg : Config) (s : State) : (ldcalEffect cfg s).temp = s.temp := rfl
@[simp] theorem ldcalEffect_press (cfg : Config) (s : State) : (ldcalEffect cfg s).press = s.press := rfl
@[simp] theorem ldcalEffect_hum (cfg : Config) (s : State) : (ldcalEffect cfg s).hum = s.hum := rfl
@[simp] theorem ldcalEffect_res (cfg : Config) (s : State) : (ldcalEffect cfg s).res = s.res := rfl
@[simp] theorem ldcalEffect_actions (cfg : Config) (s : State) : (ldcalEffect cfg s).actions = s.actions := rfl
@[simp] theorem ldcalEffect_output (cfg : Config) (s : State) : (ldcalEffect cfg s).output = s.output := rfl
@[simp] theorem ldcalEffect_draws (cfg : Config) (s : State) : (ldcalEffect cfg s).draws = s.draws := rfl

@[simp] theorem ldcalEffect_err (cfg : Config) (s : State) : (ldcalEffect cfg s).err = s.err := by
  simp [ldcalEffect, State.err]

@[simp] theorem ldcalEffect_reserved (cfg : Config) (s : State) : getReserved (ldcalEffect cfg s).status = getReserved s.status := by
  simp [ldcalEffect]

@[simp] theorem ldcalEffect_flag (cfg : Config) (s : State) (f : Flag) :
    (ldcalEffect cfg s).flag f = if f = .calValid then true else s.flag f := by
  simp [ldcalEffect, State.flag]

/-! ### UNPACK: `ADC_*`, `RAW_VALID`, and the flags of the old sample -/

@[simp] theorem unpackEffect_rb (cfg : Config) (s : State) : (unpackEffect cfg s).rb = s.rb := rfl
@[simp] theorem unpackEffect_cal (cfg : Config) (s : State) : (unpackEffect cfg s).cal = s.cal := rfl
@[simp] theorem unpackEffect_raw (cfg : Config) (s : State) : (unpackEffect cfg s).raw = decodeRaw cfg.addrMap s := rfl
@[simp] theorem unpackEffect_tFine (cfg : Config) (s : State) : (unpackEffect cfg s).tFine = s.tFine := rfl
@[simp] theorem unpackEffect_temp (cfg : Config) (s : State) : (unpackEffect cfg s).temp = s.temp := rfl
@[simp] theorem unpackEffect_press (cfg : Config) (s : State) : (unpackEffect cfg s).press = s.press := rfl
@[simp] theorem unpackEffect_hum (cfg : Config) (s : State) : (unpackEffect cfg s).hum = s.hum := rfl
@[simp] theorem unpackEffect_res (cfg : Config) (s : State) : (unpackEffect cfg s).res = s.res := rfl
@[simp] theorem unpackEffect_actions (cfg : Config) (s : State) : (unpackEffect cfg s).actions = s.actions := rfl
@[simp] theorem unpackEffect_output (cfg : Config) (s : State) : (unpackEffect cfg s).output = s.output := rfl
@[simp] theorem unpackEffect_draws (cfg : Config) (s : State) : (unpackEffect cfg s).draws = s.draws := rfl

@[simp] theorem unpackEffect_err (cfg : Config) (s : State) : (unpackEffect cfg s).err = s.err := by
  simp [unpackEffect, State.err, clearSampleFlags]

@[simp] theorem unpackEffect_reserved (cfg : Config) (s : State) : getReserved (unpackEffect cfg s).status = getReserved s.status := by
  simp [unpackEffect, clearSampleFlags]

@[simp] theorem unpackEffect_flag (cfg : Config) (s : State) (f : Flag) :
    (unpackEffect cfg s).flag f = if f = .rawValid then true else if f.ofSample then false else s.flag f := by
  cases f <;> simp [unpackEffect, clearSampleFlags, State.flag, Flag.ofSample]

/-! ### COMPT: `T_FINE`, `TEMP`, `TF_VALID`, `T_VALID` -/

@[simp] theorem comptEffect_rb (cfg : Config) (s : State) : (comptEffect cfg s).rb = s.rb := rfl
@[simp] theorem comptEffect_cal (cfg : Config) (s : State) : (comptEffect cfg s).cal = s.cal := rfl
@[simp] theorem comptEffect_raw (cfg : Config) (s : State) : (comptEffect cfg s).raw = s.raw := rfl
@[simp] theorem comptEffect_tFine (cfg : Config) (s : State) : (comptEffect cfg s).tFine = BitVec.ofInt 32 (compTOf cfg s.raw s.cal).2 := rfl
@[simp] theorem comptEffect_temp (cfg : Config) (s : State) : (comptEffect cfg s).temp = BitVec.ofInt 32 (compTOf cfg s.raw s.cal).1 := rfl
@[simp] theorem comptEffect_press (cfg : Config) (s : State) : (comptEffect cfg s).press = s.press := rfl
@[simp] theorem comptEffect_hum (cfg : Config) (s : State) : (comptEffect cfg s).hum = s.hum := rfl
@[simp] theorem comptEffect_res (cfg : Config) (s : State) : (comptEffect cfg s).res = s.res := rfl
@[simp] theorem comptEffect_actions (cfg : Config) (s : State) : (comptEffect cfg s).actions = s.actions := rfl
@[simp] theorem comptEffect_output (cfg : Config) (s : State) : (comptEffect cfg s).output = s.output := rfl
@[simp] theorem comptEffect_draws (cfg : Config) (s : State) : (comptEffect cfg s).draws = s.draws := rfl

@[simp] theorem comptEffect_err (cfg : Config) (s : State) : (comptEffect cfg s).err = s.err := by
  simp [comptEffect, State.err]

@[simp] theorem comptEffect_reserved (cfg : Config) (s : State) : getReserved (comptEffect cfg s).status = getReserved s.status := by
  simp [comptEffect]

@[simp] theorem comptEffect_flag (cfg : Config) (s : State) (f : Flag) :
    (comptEffect cfg s).flag f = if f = .tValid then true else if f = .tfValid then true else s.flag f := by
  simp [comptEffect, State.flag]

/-! ### COMPP: `PRESS`, `P_VALID`, `P_UNDEF` -/

@[simp] theorem comppEffect_rb (cfg : Config) (s : State) : (comppEffect cfg s).rb = s.rb := rfl
@[simp] theorem comppEffect_cal (cfg : Config) (s : State) : (comppEffect cfg s).cal = s.cal := rfl
@[simp] theorem comppEffect_raw (cfg : Config) (s : State) : (comppEffect cfg s).raw = s.raw := rfl
@[simp] theorem comppEffect_tFine (cfg : Config) (s : State) : (comppEffect cfg s).tFine = s.tFine := rfl
@[simp] theorem comppEffect_temp (cfg : Config) (s : State) : (comppEffect cfg s).temp = s.temp := rfl
@[simp] theorem comppEffect_press (cfg : Config) (s : State) : (comppEffect cfg s).press = BitVec.ofInt 128 (compPOf cfg s.raw s.tFine s.cal).1 := rfl
@[simp] theorem comppEffect_hum (cfg : Config) (s : State) : (comppEffect cfg s).hum = s.hum := rfl
@[simp] theorem comppEffect_res (cfg : Config) (s : State) : (comppEffect cfg s).res = s.res := rfl
@[simp] theorem comppEffect_actions (cfg : Config) (s : State) : (comppEffect cfg s).actions = s.actions := rfl
@[simp] theorem comppEffect_output (cfg : Config) (s : State) : (comppEffect cfg s).output = s.output := rfl
@[simp] theorem comppEffect_draws (cfg : Config) (s : State) : (comppEffect cfg s).draws = s.draws := rfl

@[simp] theorem comppEffect_err (cfg : Config) (s : State) : (comppEffect cfg s).err = s.err := by
  simp [comppEffect, State.err]

@[simp] theorem comppEffect_reserved (cfg : Config) (s : State) : getReserved (comppEffect cfg s).status = getReserved s.status := by
  simp [comppEffect]

@[simp] theorem comppEffect_flag (cfg : Config) (s : State) (f : Flag) :
    (comppEffect cfg s).flag f = if f = .pValid then true else if f = .pUndef then (compPOf cfg s.raw s.tFine s.cal).2 else s.flag f := by
  simp [comppEffect, State.flag]

/-! ### COMPH: `HUM`, `H_VALID`, `H_CLAMP_LO`, `H_CLAMP_HI` -/

@[simp] theorem comphEffect_rb (cfg : Config) (s : State) : (comphEffect cfg s).rb = s.rb := rfl
@[simp] theorem comphEffect_cal (cfg : Config) (s : State) : (comphEffect cfg s).cal = s.cal := rfl
@[simp] theorem comphEffect_raw (cfg : Config) (s : State) : (comphEffect cfg s).raw = s.raw := rfl
@[simp] theorem comphEffect_tFine (cfg : Config) (s : State) : (comphEffect cfg s).tFine = s.tFine := rfl
@[simp] theorem comphEffect_temp (cfg : Config) (s : State) : (comphEffect cfg s).temp = s.temp := rfl
@[simp] theorem comphEffect_press (cfg : Config) (s : State) : (comphEffect cfg s).press = s.press := rfl
@[simp] theorem comphEffect_hum (cfg : Config) (s : State) : (comphEffect cfg s).hum = BitVec.ofInt 32 (compHOf cfg s.raw s.tFine s.cal).1 := rfl
@[simp] theorem comphEffect_res (cfg : Config) (s : State) : (comphEffect cfg s).res = s.res := rfl
@[simp] theorem comphEffect_actions (cfg : Config) (s : State) : (comphEffect cfg s).actions = s.actions := rfl
@[simp] theorem comphEffect_output (cfg : Config) (s : State) : (comphEffect cfg s).output = s.output := rfl
@[simp] theorem comphEffect_draws (cfg : Config) (s : State) : (comphEffect cfg s).draws = s.draws := rfl

@[simp] theorem comphEffect_err (cfg : Config) (s : State) : (comphEffect cfg s).err = s.err := by
  simp [comphEffect, State.err]

@[simp] theorem comphEffect_reserved (cfg : Config) (s : State) : getReserved (comphEffect cfg s).status = getReserved s.status := by
  simp [comphEffect]

@[simp] theorem comphEffect_flag (cfg : Config) (s : State) (f : Flag) :
    (comphEffect cfg s).flag f = if f = .hValid then true
      else if f = .hClampHi then (compHOf cfg s.raw s.tFine s.cal).2.2
      else if f = .hClampLo then (compHOf cfg s.raw s.tFine s.cal).2.1
      else s.flag f := by
  simp [comphEffect, State.flag]

/-! ### SAMPLE: the four parts in order -/

theorem sampleEffect_eq (cfg : Config) (s : State) :
    sampleEffect cfg s = comphEffect cfg (comppEffect cfg (comptEffect cfg (unpackEffect cfg s))) := rfl

@[simp] theorem sampleEffect_rb (cfg : Config) (s : State) : (sampleEffect cfg s).rb = s.rb := by simp [sampleEffect]
@[simp] theorem sampleEffect_cal (cfg : Config) (s : State) : (sampleEffect cfg s).cal = s.cal := by simp [sampleEffect]
@[simp] theorem sampleEffect_raw (cfg : Config) (s : State) : (sampleEffect cfg s).raw = decodeRaw cfg.addrMap s := by simp [sampleEffect]
@[simp] theorem sampleEffect_res (cfg : Config) (s : State) : (sampleEffect cfg s).res = s.res := by simp [sampleEffect]
@[simp] theorem sampleEffect_actions (cfg : Config) (s : State) : (sampleEffect cfg s).actions = s.actions := by simp [sampleEffect]
@[simp] theorem sampleEffect_draws (cfg : Config) (s : State) : (sampleEffect cfg s).draws = s.draws := by simp [sampleEffect]

@[simp] theorem sampleEffect_err (cfg : Config) (s : State) : (sampleEffect cfg s).err = s.err := by
  simp [sampleEffect]

@[simp] theorem sampleEffect_reserved (cfg : Config) (s : State) :
    getReserved (sampleEffect cfg s).status = getReserved s.status := by
  simp [sampleEffect]

/-! ### Effects of states that differ only in their output -/

@[simp] theorem unpackEffect_answer (cfg : Config) (s : State) (o : Output) :
    unpackEffect cfg (s.answer o) = (unpackEffect cfg s).answer o := rfl

@[simp] theorem comptEffect_answer (cfg : Config) (s : State) (o : Output) :
    comptEffect cfg (s.answer o) = (comptEffect cfg s).answer o := rfl

@[simp] theorem comppEffect_answer (cfg : Config) (s : State) (o : Output) :
    comppEffect cfg (s.answer o) = (comppEffect cfg s).answer o := rfl

@[simp] theorem comphEffect_answer (cfg : Config) (s : State) (o : Output) :
    comphEffect cfg (s.answer o) = (comphEffect cfg s).answer o := rfl

@[simp] theorem sampleEffect_answer (cfg : Config) (s : State) (o : Output) :
    sampleEffect cfg (s.answer o) = (sampleEffect cfg s).answer o := by
  simp only [sampleEffect, unpackEffect_answer, comptEffect_answer, comppEffect_answer, comphEffect_answer]

@[simp] theorem State.answer_answer (s : State) (o o' : Output) : (s.answer o).answer o' = s.answer o' := rfl

/-- Two states are equal when their registers are and their status words agree field by field. -/
theorem State.ext_fields {s t : State} (hrb : s.rb = t.rb) (hflag : ∀ f, s.flag f = t.flag f) (herr : s.err = t.err)
    (hres : getReserved s.status = getReserved t.status) (hcal : s.cal = t.cal) (hraw : s.raw = t.raw)
    (htFine : s.tFine = t.tFine) (htemp : s.temp = t.temp) (hpress : s.press = t.press) (hhum : s.hum = t.hum)
    (hr : s.res = t.res) (hact : s.actions = t.actions) (hout : s.output = t.output) (hdraws : s.draws = t.draws) :
    s = t := by
  have hstatus : s.status = t.status := status_ext hflag hres herr
  cases s
  cases t
  simp_all

end Sys2Proof.Machine
end

