-- ==== Sys2Proof/Laws/Exec.lean ====
section
/-! SUPPORT. One equation for all commands: `exec` runs a command's checks and then its effect (spec/30_encoding.md R45).
Invariants and frames are case splits over `checksOf` and `effectOf`, without unfolding a meaning. -/

namespace Sys2Proof.Machine

/-- The checks of a command, in the order of R71. -/
def checksOf (cfg : Config) : Instr → State → List (Bool × FaultCode)
  | .rdu16 addr, s => readChecks cfg addr s
  | .rds16 addr, s => readChecks cfg addr s
  | .ldcal, s => [(s.flag .rbValid, .bufferInvalid), (!s.flag .calValid, .calLocked)]
  | .unpack, s => [(s.flag .rbValid, .bufferInvalid)]
  | .compt, s => [(s.flag .calValid, .noCal), (s.flag .rawValid, .noRaw)]
  | .compp, s => tFineChecks s
  | .comph, s => tFineChecks s
  | .sample, s => [(s.flag .rbValid, .bufferInvalid), (s.flag .calValid, .noCal)]

/-- The effect of a command whose checks hold. -/
def effectOf (cfg : Config) : Instr → State → State
  | .rdu16 addr, s => setResult (s.memRead2 addr) s
  | .rds16 addr, s => setResult (s.memReadS16 addr) s
  | .ldcal, s => ldcalEffect cfg s
  | .unpack, s => unpackEffect cfg s
  | .compt, s => comptEffect cfg s
  | .compp, s => comppEffect cfg s
  | .comph, s => comphEffect cfg s
  | .sample, s => sampleEffect cfg s

/-- `exec` runs the checks, then the effect (R45). -/
theorem exec_eq_runCommand (i : Instr) (s : State) :
    exec i s = runCommand (checksOf config i s) (effectOf config i) s := by
  cases i <;> rfl

/-- The two ways a command can end. -/
theorem exec_cases {i : Instr} {s t : State} (h : exec i s = .next t) :
    (∃ c, firstFailing (checksOf config i s) = some c ∧ t = raiseFault c s) ∨
      (firstFailing (checksOf config i s) = none ∧ t = (effectOf config i s).answer (.response .ok)) :=
  runCommand_cases ((exec_eq_runCommand i s).symm.trans h)

theorem exec_ok {i : Instr} {s : State} (h : firstFailing (checksOf config i s) = none) :
    exec i s = .next ((effectOf config i s).answer (.response .ok)) := by
  rw [exec_eq_runCommand, runCommand_ok _ h]

theorem exec_fault {i : Instr} {s : State} {c : FaultCode} (h : firstFailing (checksOf config i s) = some c) :
    exec i s = .next (raiseFault c s) := by
  rw [exec_eq_runCommand, runCommand_fault _ h]

end Sys2Proof.Machine
end

