-- ==== Sys2Proof/Laws/Formulas.lean ====
section
/-! SUPPORT. The paths of the formulas, for every body: the zero guard (spec/41_compensation.md R55, R58) and the clamp
(R60, R63). -/

namespace Sys2Proof.Machine

/-! The default `PRESS_BODY` in the named intermediates of R57 and R59 -/

theorem defaultPressBody_divisor (tFine p1 p2 p3 p4 p5 p6 : Int) :
    defaultPressBody.divisor tFine p1 p2 p3 p4 p5 p6 =
      (pressVar1 tFine p1 p2 p3, pressVar2 (pressA tFine) p4 p5 p6) := rfl

theorem defaultPressBody_refine (adcP var1 var2 p7 p8 p9 : Int) :
    defaultPressBody.refine adcP var1 var2 p7 p8 p9 = pressFinish (tdiv (pressNum adcP var2) var1) p7 p8 p9 := rfl

/-! The default `HUM_BODY` in the named intermediates of R62 -/

theorem defaultHumBody_firstStage (adcH tFine h2 h3 h4 h5 h6 : Int) :
    defaultHumBody.firstStage adcH tFine h2 h3 h4 h5 h6 = humX adcH tFine h2 h3 h4 h5 h6 := rfl

theorem defaultHumBody_correction (x h1 adcH tFine h2 h3 h4 h5 h6 : Int) :
    defaultHumBody.correction x h1 adcH tFine h2 h3 h4 h5 h6 = humK x h1 := rfl

/-! The zero guard -/

theorem compP_of_zero {body : PressBody} {adcP tFine p1 p2 p3 p4 p5 p6 p7 p8 p9 : Int}
    (h : (body.divisor tFine p1 p2 p3 p4 p5 p6).1 = 0) :
    compP body adcP tFine p1 p2 p3 p4 p5 p6 p7 p8 p9 = (0, true) := by
  simp only [compP, h, if_true]

theorem compP_of_ne_zero {body : PressBody} {adcP tFine p1 p2 p3 p4 p5 p6 p7 p8 p9 : Int}
    (h : (body.divisor tFine p1 p2 p3 p4 p5 p6).1 ≠ 0) :
    compP body adcP tFine p1 p2 p3 p4 p5 p6 p7 p8 p9 =
      (body.refine adcP (body.divisor tFine p1 p2 p3 p4 p5 p6).1 (body.divisor tFine p1 p2 p3 p4 p5 p6).2 p7 p8 p9, false) := by
  simp only [compP, h, if_false]

/-- The three paths of the clamp (R63). -/
theorem humClamp_cases (y : Int) :
    (y < 0 ∧ humClamp y = (0, true, false)) ∨ (humMax < y ∧ humClamp y = (humMax, false, true)) ∨
      (0 ≤ y ∧ y ≤ humMax ∧ humClamp y = (y, false, false)) := by
  rcases lt_or_ge y 0 with h | h
  · exact .inl ⟨h, by simp only [humClamp, h, if_true]⟩
  · have hn : ¬ y < 0 := not_lt.mpr h
    rcases lt_or_ge humMax y with h' | h'
    · exact .inr (.inl ⟨h', by simp only [humClamp, hn, h', if_true, if_false]⟩)
    · have hn' : ¬ humMax < y := not_lt.mpr h'
      exact .inr (.inr ⟨h, h', by simp only [humClamp, hn, hn', if_false]⟩)

/-- A humidity lies in `0 .. 0x19000` (R63), whatever the body. -/
theorem compHOf_between (cfg : Config) (raw : RawSample) (tFine : BitVec 32) (cal : CalibrationSet) :
    0 ≤ (compHOf cfg raw tFine cal).1 ∧ (compHOf cfg raw tFine cal).1 ≤ 102400 := by
  simp only [compHOf, compH, asr]
  generalize humUnclamped _ _ _ _ _ _ _ _ _ = y
  have hm : humMax = 419430400 := rfl
  rcases humClamp_cases y with ⟨h1, h⟩ | ⟨h1, h⟩ | ⟨h1, h2, h⟩ <;> simp only [h] <;> omega

/-- So `HUM` holds it exactly (R8, R66). -/
theorem toNat_hum (cfg : Config) (raw : RawSample) (tFine : BitVec 32) (cal : CalibrationSet) :
    ((BitVec.ofInt 32 (compHOf cfg raw tFine cal).1).toNat : Int) = (compHOf cfg raw tFine cal).1 := by
  have h := compHOf_between cfg raw tFine cal
  rw [BitVec.toNat_ofInt]
  omega

end Sys2Proof.Machine
end

