-- ==== Sys2Proof/Laws/Memory.lean ====
section
/-! SUPPORT. The RegisterBuffer: a load gives a canonical memory that holds the loaded bytes and nothing else
(spec/20_memory.md R24, R26). -/

namespace Sys2Proof.Machine

@[simp] theorem Memory.read_nil (a : Nat) : Memory.read [] a = none := rfl

theorem Memory.nil_wf : Memory.wf [] := List.Pairwise.nil

/-- The addresses a load lists start at its base. -/
theorem Memory.base_le_of_mem_ofBytes {a x : Nat} {bytes : List Byte}
    (h : x ∈ (Memory.ofBytes a bytes).map Prod.fst) : a ≤ x := by
  induction bytes generalizing a with
  | nil => simp [Memory.ofBytes] at h
  | cons b rest ih =>
    rcases List.mem_cons.mp (by simpa [Memory.ofBytes] using h : x ∈ a :: (Memory.ofBytes (a + 1) rest).map Prod.fst) with
      rfl | h
    · exact le_rfl
    · exact le_trans (Nat.le_succ a) (ih h)

/-- A load gives the canonical form. -/
theorem Memory.ofBytes_wf (a : Nat) (bytes : List Byte) : (Memory.ofBytes a bytes).wf := by
  induction bytes generalizing a with
  | nil => exact Memory.nil_wf
  | cons b rest ih =>
    refine List.Pairwise.cons (fun x hx => ?_) (ih (a + 1))
    exact Nat.lt_of_lt_of_le (Nat.lt_succ_self a) (Memory.base_le_of_mem_ofBytes hx)

/-- Below its base a load lists nothing. -/
theorem Memory.read_ofBytes_of_lt {a x : Nat} (bytes : List Byte) (h : x < a) :
    (Memory.ofBytes a bytes).read x = none := by
  induction bytes generalizing a with
  | nil => rfl
  | cons b rest ih =>
    have hne : x ≠ a := by omega
    simp [Memory.ofBytes, Memory.read, hne, ih (by omega : x < a + 1)]

/-- From its base on a load holds the bytes in their order (R24). -/
theorem Memory.read_ofBytes (a i : Nat) (bytes : List Byte) : (Memory.ofBytes a bytes).read (a + i) = bytes[i]? := by
  induction bytes generalizing a i with
  | nil => simp [Memory.ofBytes]
  | cons b rest ih =>
    cases i with
    | zero => simp [Memory.ofBytes, Memory.read]
    | succ j =>
      have hne : a + (j + 1) ≠ a := by omega
      have hadd : a + (j + 1) = a + 1 + j := by omega
      rw [Memory.ofBytes, Memory.read, if_neg hne, hadd, ih]
      simp

/-- An address a load lists lies in its range, and holds a byte. -/
theorem Memory.read_ofBytes_isSome (a x : Nat) (bytes : List Byte) :
    ((Memory.ofBytes a bytes).read x).isSome = (decide (a ≤ x) && decide (x < a + bytes.length)) := by
  by_cases h : a ≤ x
  · obtain ⟨i, rfl⟩ := Nat.exists_eq_add_of_le h
    rw [Memory.read_ofBytes]
    by_cases hi : i < bytes.length <;> simp [hi]
  · simp [Memory.read_ofBytes_of_lt bytes (Nat.lt_of_not_le h), h]

/-- A loaded byte is what a command reads. -/
theorem State.rbByte_of_read {s : State} {a : Nat} {b : Byte} (h : s.rb.read a = some b) : s.rbByte a = b := by
  simp [State.rbByte, h]

end Sys2Proof.Machine
end

