-- ==== Sys2Proof/Laws/Operands.lean ====
section
/-! SUPPORT. The packed fields as sums of weighted bytes (spec/20_memory.md R28, R29; spec/40_decoder.md R50, R51), their
ranges, and the decoded registers read back as numbers. -/

namespace Sys2Proof.Machine

theorem byte_lt (b : Byte) : b.toNat < 256 := b.isLt

/-- `RB[a] | (RB[a+1] << 8)`: the low byte first (R28). -/
theorem State.memRead2_eq (s : State) (a : Nat) :
    s.memRead2 a = (s.rbByte a).toNat + 256 * (s.rbByte (a + 1)).toNat := by
  have h := Nat.shiftLeft_add_eq_or_of_lt (i := 8) (byte_lt (s.rbByte a)) (s.rbByte (a + 1)).toNat
  rw [State.memRead2, Nat.or_comm, ← h, Nat.shiftLeft_eq]
  ring

theorem State.memRead2_lt (s : State) (a : Nat) : s.memRead2 a < 65536 := by
  have h1 := byte_lt (s.rbByte a)
  have h2 := byte_lt (s.rbByte (a + 1))
  rw [State.memRead2_eq]
  omega

/-- The signed read is the two's-complement reading of the unsigned one (R48). -/
theorem State.memReadS16_eq (s : State) (a : Nat) :
    s.memReadS16 a = if s.memRead2 a < 32768 then (s.memRead2 a : Int) else (s.memRead2 a : Int) - 65536 := by
  rw [State.memReadS16, sext]
  norm_num

theorem State.memReadS16_between (s : State) (a : Nat) : -32768 ≤ s.memReadS16 a ∧ s.memReadS16 a ≤ 32767 := by
  have h := s.memRead2_lt a
  rw [State.memReadS16_eq]
  split <;> omega

/-- A 16-bit register loaded from a signed read holds it exactly. -/
theorem State.toInt_memReadS16 (s : State) (a : Nat) : (BitVec.ofInt 16 (s.memReadS16 a)).toInt = s.memReadS16 a := by
  have h := s.memReadS16_between a
  rw [BitVec.toInt_ofInt_eq_self (by decide) (by omega) (by omega)]

/-- A 16-bit register loaded from an unsigned read holds it exactly. -/
theorem State.toNat_memRead2 (s : State) (a : Nat) : (BitVec.ofNat 16 (s.memRead2 a)).toNat = s.memRead2 a := by
  have h := s.memRead2_lt a
  rw [BitVec.toNat_ofNat, Nat.mod_eq_of_lt (by omega)]

/-- An 8-bit register loaded from a byte holds it exactly. -/
theorem State.toNat_memRead1 (s : State) (a : Nat) : (BitVec.ofNat 8 (s.memRead1 a)).toNat = (s.rbByte a).toNat := by
  rw [BitVec.toNat_ofNat, State.memRead1, Nat.mod_eq_of_lt (byte_lt _)]

/-- `DIG_H4`: the first byte high, the low nibble of the shared byte low (R50). -/
theorem State.packedH4_eq (s : State) (a : Nat) :
    s.packedH4 a = 16 * (s.rbByte a).toNat + (s.rbByte (a + 1)).toNat % 16 := by
  rw [State.packedH4, Nat.shiftLeft_eq, Nat.and_two_pow_sub_one_eq_mod _ 4]
  ring_nf

/-- `DIG_H5`: the last byte high, the high nibble of the shared byte low (R50). -/
theorem State.packedH5_eq (s : State) (a : Nat) :
    s.packedH5 a = 16 * (s.rbByte (a + 2)).toNat + (s.rbByte (a + 1)).toNat / 16 := by
  have h : ∀ b : Byte, (b.toNat &&& 0xF0) >>> 4 = b.toNat / 16 := by decide
  rw [State.packedH5, Nat.shiftLeft_eq, h]
  ring

theorem State.toNat_packedH4 (s : State) (a : Nat) : (BitVec.ofNat 12 (s.packedH4 a)).toNat = s.packedH4 a := by
  have h1 := byte_lt (s.rbByte a)
  rw [BitVec.toNat_ofNat, Nat.mod_eq_of_lt]
  rw [State.packedH4_eq]
  omega

theorem State.toNat_packedH5 (s : State) (a : Nat) : (BitVec.ofNat 12 (s.packedH5 a)).toNat = s.packedH5 a := by
  have h1 := byte_lt (s.rbByte (a + 2))
  have h2 := byte_lt (s.rbByte (a + 1))
  rw [BitVec.toNat_ofNat, Nat.mod_eq_of_lt]
  rw [State.packedH5_eq]
  omega

/-- The three parts of a 20-bit raw field lie in disjoint bits (R51). -/
theorem State.raw20_eq (s : State) (a : Nat) :
    s.raw20 a = 4096 * (s.rbByte a).toNat + 16 * (s.rbByte (a + 1)).toNat + (s.rbByte (a + 2)).toNat / 16 := by
  have h1 := byte_lt (s.rbByte (a + 1))
  have h2 := byte_lt (s.rbByte (a + 2))
  have hlow : (s.rbByte (a + 1)).toNat <<< 4 ||| (s.rbByte (a + 2)).toNat >>> 4 =
      16 * (s.rbByte (a + 1)).toNat + (s.rbByte (a + 2)).toNat / 16 := by
    rw [← Nat.shiftLeft_add_eq_or_of_lt (i := 4), Nat.shiftLeft_eq, Nat.shiftRight_eq_div_pow]
    · ring
    · rw [Nat.shiftRight_eq_div_pow]
      omega
  rw [State.raw20, Nat.or_assoc, hlow, ← Nat.shiftLeft_add_eq_or_of_lt (i := 12), Nat.shiftLeft_eq]
  · ring
  · omega

theorem State.toNat_raw20 (s : State) (a : Nat) : (BitVec.ofNat 20 (s.raw20 a)).toNat = s.raw20 a := by
  have h0 := byte_lt (s.rbByte a)
  have h1 := byte_lt (s.rbByte (a + 1))
  have h2 := byte_lt (s.rbByte (a + 2))
  rw [BitVec.toNat_ofNat, Nat.mod_eq_of_lt]
  rw [State.raw20_eq]
  omega

/-- The humidity raw field: the first byte high (R51). -/
theorem State.raw16_eq (s : State) (a : Nat) :
    s.raw16 a = 256 * (s.rbByte a).toNat + (s.rbByte (a + 1)).toNat := by
  rw [State.raw16, ← Nat.shiftLeft_add_eq_or_of_lt (i := 8) (byte_lt _), Nat.shiftLeft_eq]
  ring

theorem State.toNat_raw16 (s : State) (a : Nat) : (BitVec.ofNat 16 (s.raw16 a)).toNat = s.raw16 a := by
  have h0 := byte_lt (s.rbByte a)
  have h1 := byte_lt (s.rbByte (a + 1))
  rw [BitVec.toNat_ofNat, Nat.mod_eq_of_lt]
  rw [State.raw16_eq]
  omega

/-- The address check as a proposition (R32). -/
theorem addrInBuffer_iff (cfg : Config) (a : Nat) : addrInBuffer cfg a = true ↔ cfg.rbBase ≤ a ∧ a + 1 ≤ 0xFF := by
  simp [addrInBuffer]

/-- Reads of the buffer depend on the buffer alone. -/
theorem State.rbByte_congr {s t : State} (h : ∀ a, s.rb.read a = t.rb.read a) (a : Nat) : s.rbByte a = t.rbByte a := by
  rw [State.rbByte, State.rbByte, h]

theorem signedReg_between {n : Nat} (v : BitVec n) : -2 ^ (n - 1) ≤ signedReg v ∧ signedReg v < 2 ^ (n - 1) :=
  ⟨BitVec.le_toInt v, BitVec.toInt_lt⟩

theorem unsignedReg_between {n : Nat} (v : BitVec n) : 0 ≤ unsignedReg v ∧ unsignedReg v < 2 ^ n := by
  have h := v.isLt
  refine ⟨Int.natCast_nonneg _, ?_⟩
  rw [unsignedReg]
  exact_mod_cast h

theorem decodeRaw_congr (m : AddrMap) {s t : State} (h : ∀ a, s.rb.read a = t.rb.read a) :
    decodeRaw m s = decodeRaw m t := by
  simp only [decodeRaw, State.raw20, State.raw16, State.rbByte_congr h]

theorem decodeCalibration_congr (m : AddrMap) {s t : State} (h : ∀ a, s.rb.read a = t.rb.read a) :
    decodeCalibration m s = decodeCalibration m t := by
  simp only [decodeCalibration, State.memReadS16, State.memRead2, State.memRead1, State.packedH4, State.packedH5,
    State.rbByte_congr h]

end Sys2Proof.Machine
end

