-- ==== Sys2Proof/Laws/PerInstr.lean ====
section
/-! SUPPORT. Per command: its encoding lies in its own row of the opcode map, under its own mnemonic
(spec/30_encoding.md R40). -/

namespace Sys2Proof.Laws.EncodingSelectsOwnRow

open Sys2Proof Sys2Proof.Machine

/-- Some row of the opcode map bears the command's mnemonic and is selected by its word. -/
def Statement (i : Instr) : Prop := ∃ r ∈ opcodeMap, r.mnemonic = mnemonicOf i ∧ r.selects (encode i) = true

theorem rdu16 (addr : Nat) : Statement (.rdu16 addr) :=
  ⟨_, List.Mem.head _, rfl, by
    rw [OpcodeRow.selects, encode, and_opcode_mask]
    decide⟩

theorem rds16 (addr : Nat) : Statement (.rds16 addr) :=
  ⟨_, List.Mem.tail _ (List.Mem.head _), rfl, by
    rw [OpcodeRow.selects, encode, and_opcode_mask]
    decide⟩

theorem ldcal : Statement .ldcal := by unfold Statement; decide

theorem unpack : Statement .unpack := by unfold Statement; decide

theorem compt : Statement .compt := by unfold Statement; decide

theorem compp : Statement .compp := by unfold Statement; decide

theorem comph : Statement .comph := by unfold Statement; decide

theorem sample : Statement .sample := by unfold Statement; decide

end Sys2Proof.Laws.EncodingSelectsOwnRow
end

