-- ==== Sys2Proof/Laws/Step.lean ====
section
/-! SUPPORT. What a step can do: it idles, or takes the host's next action, which is one of four (spec/20_memory.md R35;
spec/70_reset_and_hazards.md R90); and what each of the three that are no commands does. -/

namespace Sys2Proof.Machine

theorem step_idle {s : State} (h : s.actions = []) : step s = .next s := by
  simp [step, takeAction, h]

theorem step_action {s : State} {a : HostAction} {rest : List HostAction} (h : s.actions = a :: rest) :
    step s = runAction a { s with actions := rest } := by
  simp [step, takeAction, h]

/-- All a step can do. In each case but idling, `s'` is the state with the action taken. -/
theorem step_cases {s t : State} (h : step s = .next t) :
    (s.actions = [] ∧ t = s) ∨
      ∃ a rest, s.actions = a :: rest ∧
        ((a = .reset ∧ t = hostReset { s with actions := rest }) ∨
         (∃ bytes, a = .load bytes ∧ t = hostLoad bytes { s with actions := rest }) ∨
         (∃ idx, a = .read idx ∧ t = hostRead idx { s with actions := rest }) ∨
         (∃ w i, a = .command w ∧ decode w = .ok i ∧ exec i { s with actions := rest } = .next t) ∨
         (∃ w e, a = .command w ∧ decode w = .error e ∧ t = raiseFault .illegalCmd { s with actions := rest })) := by
  cases hs : s.actions with
  | nil =>
    rw [step_idle hs] at h
    injection h with h
    exact .inl ⟨rfl, h.symm⟩
  | cons a rest =>
    rw [step_action hs] at h
    refine .inr ⟨a, rest, rfl, ?_⟩
    cases a with
    | reset => injection h with h; exact .inl ⟨rfl, h.symm⟩
    | load bytes => injection h with h; exact .inr (.inl ⟨bytes, rfl, h.symm⟩)
    | read idx => injection h with h; exact .inr (.inr (.inl ⟨idx, rfl, h.symm⟩))
    | command w =>
      rw [runAction, runWord] at h
      split at h
      · exact .inr (.inr (.inr (.inl ⟨w, _, rfl, ‹_›, h⟩)))
      · injection h with h
        exact .inr (.inr (.inr (.inr ⟨w, _, rfl, ‹_›, h.symm⟩)))

/-! ### The read port (R22) -/

@[simp] theorem Reg.ofIndex_index (r : Reg) : Reg.ofIndex r.index = some r := by cases r <;> decide

theorem Reg.index_of_ofIndex {idx : RegIndex} {r : Reg} (h : Reg.ofIndex idx = some r) : r.index = idx := by
  simpa using List.find?_some h

theorem hostRead_unassigned {idx : RegIndex} (s : State) (h : Reg.ofIndex idx = none) :
    hostRead idx s = s.answer (.data 0) := by
  rw [hostRead, h]

theorem hostRead_valid {s : State} {r : Reg} (h : s.regValid r = true) :
    hostRead r.index s = s.answer (.data (s.regWord r)) := by
  rw [hostRead, Reg.ofIndex_index]
  simp [h]

theorem hostRead_invalid {s : State} {r : Reg} (h : s.regValid r = false) :
    hostRead r.index s = { s with draws := s.draws + 1 }.answer (.data (Config.freePortWord s.draws)) := by
  rw [hostRead, Reg.ofIndex_index]
  simp [h]

/-- A read changes its output, and at most the counter of free values. -/
theorem hostRead_cases (idx : RegIndex) (s : State) :
    ∃ w n, hostRead idx s = { s with output := some (.data w), draws := n } := by
  unfold hostRead
  split
  · exact ⟨_, s.draws, rfl⟩
  · split
    · exact ⟨_, s.draws, rfl⟩
    · exact ⟨_, s.draws + 1, rfl⟩

/-! ### Loads (R26) -/

theorem hostLoadIn_right {cfg : Config} {bytes : List Byte} (s : State) (h : bytes.length = rbLen cfg) :
    hostLoadIn cfg bytes s = { s with rb := Memory.ofBytes cfg.rbBase bytes }.setFlag .rbValid true := by
  rw [hostLoadIn, if_pos h]

theorem hostLoadIn_wrong {cfg : Config} {bytes : List Byte} (s : State) (h : bytes.length ≠ rbLen cfg) :
    hostLoadIn cfg bytes s = { s with rb := [] }.setFlag .rbValid false := by
  rw [hostLoadIn, if_neg h]

end Sys2Proof.Machine
end

