-- ==== Sys2Proof/Tests/Slice0.lean ====
section
/-! SUPPORT. Small tests of the model, and for every statement with hypotheses a concrete case that meets them. Expected
values are from spec/95_test_vectors.md (the vector is named), from the spec's encodings written out bit by bit, or from the
rule cited; none is the model's own answer. -/

namespace Sys2Proof.Tests

open Sys2Proof Sys2Proof.Machine Sys2Proof.Claims

/-! ### States to test on -/

/-- The next state of an outcome. -/
def nextOf : Host.Outcome State Fault Refusal → Option State
  | .next t => some t
  | .fault _ => none
  | .refused _ => none

/-- A property of the next state. -/
def nextHas (o : Host.Outcome State Fault Refusal) (p : State → Bool) : Bool := ((nextOf o).map p).getD false

/-- `buf1` of spec/95_test_vectors.md Part 3. -/
def buf1 : List Byte :=
  [0x70, 0x6B, 0x43, 0x67, 0x18, 0xFC, 0x7D, 0x8E, 0x43, 0xD6, 0xD0, 0x0B, 0x27, 0x0B, 0x8C, 0x00] ++
  [0xF9, 0xFF, 0x8C, 0x3C, 0xF8, 0xC6, 0x70, 0x17, 0x00, 0x4B, 0x00, 0x00, 0x00, 0x00, 0x00, 0x00] ++
  List.replicate 56 0x00 ++
  [0x00, 0x6F, 0x01, 0x00, 0x12, 0xA3, 0x45, 0x1E, 0x00, 0x00, 0x00, 0x00, 0x00, 0x00, 0x00, 0x00] ++
  [0x00, 0x00, 0x00, 0x00, 0x00, 0x00, 0x00, 0x65, 0x5A, 0xC3, 0x7E, 0xED, 0x07, 0x75, 0x30, 0x00]

/-- The bytes of `buf1` by register address. -/
def buf1At (a : Nat) : Byte := buf1.getD (a - 0x88) 0

/-- Right after `@LOAD buf1`. -/
def loaded : State := hostLoad buf1 State.reset

/-- The constants of vector V-D23. -/
def calibration1 : CalibrationSet :=
  ⟨27504, 26435, BitVec.ofInt 16 (-1000), 36477, BitVec.ofInt 16 (-10685), 3024, 2855, 140, BitVec.ofInt 16 (-7), 15500,
    BitVec.ofInt 16 (-14600), 6000, 75, 367, 0, 291, 1114, 30⟩

/-- The raw sample of vector V-U1. -/
def raw1 : RawSample := ⟨519888, 415148, 30000⟩

/-- Calibrated and unpacked, temperature not yet computed (`STATUS` of vector V-F6). -/
def unpacked : State := { State.reset with status := 0x0007, cal := calibration1, raw := raw1 }

/-- After COMPT (`STATUS` of program P2, step 7, without `ERR`). -/
def withTFine : State := { unpacked with status := 0x001F, tFine := 119365, temp := 2331 }

/-- After the whole sample of program P1. -/
def sampled : State := { withTFine with status := 0x007F, press := 25697540, hum := 49221 }

/-- The loaded and calibrated state of program P1, step 3. -/
def calibrated : State := { loaded with status := 0x0003, cal := calibration1 }

theorem loaded_holds_buf1 : BufferHolds buf1At loaded := by
  intro a h1 h2
  have h1' : 0x88 ≤ a := h1
  obtain ⟨i, rfl⟩ := Nat.exists_eq_add_of_le h1'
  have hi : i < buf1.length := by
    have : buf1.length = 120 := by decide +kernel
    omega
  have hread := Memory.read_ofBytes 0x88 i buf1
  rw [List.getElem?_eq_getElem hi] at hread
  have hbyte : buf1At (0x88 + i) = buf1[i] := by
    rw [buf1At, Nat.add_sub_cancel_left, List.getD_eq_getElem?_getD, List.getElem?_eq_getElem hi, Option.getD_some]
  rw [hbyte, ← hread]
  rfl

/-! ### Well-formedness refuses an ill-formed term, check by check -/

theorem test_wellFormed_refuses_wide_rdu16 : (Instr.rdu16 256).wellFormed = false := by decide

theorem test_wellFormed_refuses_wide_rds16 : (Instr.rds16 256).wellFormed = false := by decide

/-- A field below `RB_BASE` (R7: `RB_BASE` at or below the lowest address). -/
theorem test_wellFormed_refuses_high_base : { config with rbBase := 0x89 }.wellFormed = false := by decide

/-- A field that runs past `0xFF` (R27). -/
theorem test_wellFormed_refuses_field_past_top :
    { config with addrMap := { defaultAddrMap with aHum := 0xFF } }.wellFormed = false := by decide

/-- R60: a correction that does not use `dig_h1`, and a first stage that does not read `dig_h2` and `dig_h3`. -/
theorem test_wellFormed_refuses_hum_body :
    { config with humBody := { defaultHumBody with corr := .const 0 } }.wellFormed = false ∧
      { config with humBody := { defaultHumBody with first := .mul exprHumA exprM1 } }.wellFormed = false := by decide

/-- R55: a body without the division, and one whose refinement does not use `dig_p8`. -/
theorem test_wellFormed_refuses_press_body :
    { config with pressBody := { defaultPressBody with refinement := .var (.input .adcP) } }.wellFormed = false ∧
      { config with pressBody := { defaultPressBody with refinement := .add exprW1 (.var (.input .p7)) } }.wellFormed = false ∧
      config.wellFormed = true := by decide

/-! ### Decoding: words written out bit by bit from R40 -/

theorem test_decode_rdu16 : decode 0b00000001_10001000 = .ok (.rdu16 0x88) := by decide

theorem test_decode_rds16 : decode 0b00000010_11111110 = .ok (.rds16 0xFE) := by decide

theorem test_decode_ldcal : decode 0b00010000_00000000 = .ok .ldcal := by decide

theorem test_decode_unpack : decode 0b00010001_00000000 = .ok .unpack := by decide

theorem test_decode_compt : decode 0b00100000_00000000 = .ok .compt := by decide

theorem test_decode_compp : decode 0b00100001_00000000 = .ok .compp := by decide

theorem test_decode_comph : decode 0b00100010_00000000 = .ok .comph := by decide

theorem test_decode_sample : decode 0b00101111_00000000 = .ok .sample := by decide

/-- Vectors V-E9 and V-E10. -/
theorem test_decode_refuses_zero_and_ones :
    decode 0x0000 = .error (.unknownOpcode 0x00) ∧ decode 0xFFFF = .error (.unknownOpcode 0xFF) := by decide

theorem test_decodeTableWord : decodeTableWord 16 0x2F00 = some .sample ∧ decodeTableWord 16 0x3000 = none := by decide

/-- The first step after reset, with a command placed, runs it: vector V-E5. -/
theorem test_withFetchWord_runs : nextHas (step (State.reset.withFetchWord 16 0x2000)) (fun t =>
    t.status == 0x5000 && t.output == some (.response (.fault .noCal))) = true := by decide

/-! ### Operators (R10) -/

theorem test_asr_floors : asr (-1) 1 = -1 ∧ asr (-6076000) 14 = -371 := by decide

theorem test_tdiv_truncates : tdiv 7 2 = 3 ∧ tdiv (-7) 2 = -3 ∧ tdiv 7 (-2) = -3 ∧ tdiv (-7) (-2) = 3 := by decide

/-! ### Commands -/

/-- Vector V-D1. -/
theorem test_rdu16_low_byte_first : nextHas (exec (.rdu16 0x88) loaded) (fun t =>
    t.res.toInt == 27504 && t.status == 0x0081) = true := by decide +kernel

/-- Vector V-D13. -/
theorem test_rdu16_past_top : nextHas (exec (.rdu16 0xFF) loaded) (fun t =>
    t.output == some (.response (.fault .addrRange)) && t.status == 0x3001) = true := by decide +kernel

/-- Vector V-D4. -/
theorem test_rds16_negative : nextHas (exec (.rds16 0x8C) loaded) (fun t => t.res.toInt == -1000) = true := by decide +kernel

/-- Vector V-D15: an odd address. -/
theorem test_rds16_odd : nextHas (exec (.rds16 0xE5) loaded) (fun t => t.res.toInt == 17827) = true := by decide +kernel

/-- Vector V-D23. -/
theorem test_ldcal_constants : nextHas (exec .ldcal loaded) (fun t =>
    t.cal == calibration1 && t.status == 0x0003) = true := by decide +kernel

/-- Vector V-F7. -/
theorem test_ldcal_locked : nextHas (exec .ldcal calibrated) (fun t =>
    t.output == some (.response (.fault .calLocked)) && t.status == 0x4003) = true := by decide +kernel

/-- Vectors V-U1 and V-F3. -/
theorem test_unpack_sample : nextHas (exec .unpack loaded) (fun t => t.raw == raw1 && t.status == 0x0005) = true := by
  decide +kernel

/-- Program P2, step 11: a new sample clears what belonged to the old one. -/
theorem test_unpack_clears : nextHas (exec .unpack { sampled with status := 0x577F, rb := loaded.rb }) (fun t =>
    t.status == 0x5007) = true := by decide +kernel

/-- Vector V-T1 (L). -/
theorem test_compt_literal : nextHas (exec .compt unpacked) (fun t =>
    t.tFine.toInt == 119365 && t.temp.toInt == 2331 && t.status == 0x001F) = true := by decide

/-- Vector V-T1 (Rf): the other form of the first term. -/
theorem test_compt_reference : nextHas (comptIn { config with tVar1Form := .reference } unpacked) (fun t =>
    t.tFine.toInt == 128422 && t.temp.toInt == 2508) = true := by decide

/-- Vector V-P1. -/
theorem test_compp_normal : nextHas (exec .compp withTFine) (fun t =>
    t.press.toInt == 25697540 && t.status == 0x003F) = true := by decide

/-- Vector V-P6b: the division truncates. -/
theorem test_compp_truncates : compP defaultPressBody 1048565 128000 36477 0 0 8 0 0 0 0 0 = (-5132, false) := by decide

/-- Vector V-H1b. -/
theorem test_comph_normal : nextHas (exec .comph withTFine) (fun t =>
    t.hum.toNat == 49221 && t.status == 0x005F) = true := by decide

/-- Vector V-H2: the low clamp. -/
theorem test_comph_low_clamp : compH defaultHumBody 0 119365 75 367 0 4095 0 30 = (0, true, false) := by decide

/-- Program P1, step 4. -/
theorem test_sample_whole : nextHas (exec .sample calibrated) (fun t =>
    t.temp.toInt == 2331 && t.press.toInt == 25697540 && t.hum.toNat == 49221 && t.status == 0x007F) = true := by decide +kernel

/-- Vector V-F2. -/
theorem test_sample_uncalibrated : nextHas (exec .sample loaded) (fun t =>
    t.output == some (.response (.fault .noCal)) && t.status == 0x5001) = true := by decide +kernel

/-! ### The host's moves -/

/-- Vector V-F8: a load of 119 bytes clears `RB_VALID` alone. -/
theorem test_load_short : (hostLoad (buf1.take 119) sampled).status = 0x007E := by decide +kernel

/-- An index of R22's table, sign-extended, and an unassigned one. -/
theorem test_read_port : (hostRead 0x12 sampled).output = some (.data (BitVec.ofInt 128 (-1000))) ∧
    (hostRead 0x06 sampled).output = some (.data 0) := by decide

theorem test_reset_clears : (hostReset sampled).status = 0x0000 := by decide

/-! ### Assembler (R44) -/

theorem test_assemble_decimal_and_comment :
    parseLine "  RDS16 140 ; a comment".toList = some (.command (.rds16 0x8C)) := by decide

theorem test_assemble_refuses_wide_operand : parseLine "RDU16 256".toList = none := by decide

/-! ### Cases that meet the hypotheses of the statements -/

theorem witness_DecodeOfEncodeIsTheCommand :
    (Instr.rdu16 0).wellFormed = true ∧ (Instr.rds16 255).wellFormed = true := by decide

theorem witness_EncodeOfDecodeIsTheWord : decode 0x01FF = .ok (.rdu16 0xFF) ∧ decode 0x0200 = .ok (.rds16 0x00) := by
  decide

theorem witness_OpcodeMapRowsAreDisjoint :
    (∃ r ∈ opcodeMap, (0x2F00 : CmdWord) &&& r.mask = r.pattern) ∧ (0x01FF : CmdWord) &&& 0xFF00 = 0x0100 ∧
      (0x0200 : CmdWord) &&& 0xFF00 = 0x0200 := by decide

theorem witness_IllegalWordsTakeFaultOne :
    (sampled.withFetchWord 16 0x1001).actions = [.command 0x1001] ∧
      decode 0x1001 = .error (.nonzeroArgument 0x10 0x01) := by decide

theorem witness_StepRunsTheDecodedCommand :
    (sampled.withFetchWord 16 0x2000).actions = [.command 0x2000] ∧ decode 0x2000 = .ok .compt := by decide

theorem witness_ActionsAreTakenInOrder :
    State.reset.actions = [] ∧ ∃ t, step { sampled with actions := [.read 0x02, .reset] } = .next t :=
  ⟨rfl, _, rfl⟩

theorem witness_FirstFailingCheckIsReported : (sampled.withFetchWord 16 0x1000).actions = [.command 0x1000] := by decide

theorem witness_FaultEntryChangesOnlyErr :
    ∃ t, exec .compp State.reset = .next t ∧ t.output = some (.response (.fault .noCal)) :=
  ⟨_, rfl, rfl⟩

theorem witness_FaultEntryChangesOnlyErr_illegal_word :
    let s := sampled.withFetchWord 16 0x0000
    s.actions = .command 0x0000 :: [] ∧ ∃ t, step s = .next t ∧ t.output = some (.response (.fault .illegalCmd)) :=
  ⟨rfl, _, rfl, rfl⟩

theorem witness_ErrIsStickyUntilReset :
    let s := { sampled with status := 0x507F, actions := [.command 0x0000] }
    (∃ t, step s = .next t) ∧ (∀ rest, s.actions ≠ .reset :: rest) ∧ s.err ≠ 0 :=
  ⟨⟨_, rfl⟩, fun rest h => by simp at h, by decide⟩

theorem witness_ErrInfluencesNoCommand : ∃ t, exec .compt unpacked = .next t := ⟨_, rfl⟩

theorem witness_CommandsFaultRightAfterReset :
    (Instr.rdu16 0x88).wellFormed = true ∧
      { sampled with actions := [.reset, .command (encode (.rdu16 0x88))] }.actions =
        .reset :: .command (encode (.rdu16 0x88)) :: [] := by decide

/-- RDU16 and RDS16: the fault of an invalid buffer, both ends of the address check, and both ends of the legal range. -/
theorem witness_Rdu16_Rds16_clauses :
    State.reset.flag .rbValid = false ∧ loaded.flag .rbValid = true ∧ 0x87 < config.rbBase ∧ 0xFF < 0xFF + 1 ∧
      config.rbBase ≤ 0x88 ∧ 0xFE + 1 ≤ 0xFF ∧ BufferHolds buf1At loaded :=
  ⟨by decide +kernel, by decide +kernel, by decide +kernel, by decide +kernel, by decide +kernel, by decide +kernel, loaded_holds_buf1⟩

theorem witness_SignedAndUnsignedReadsAgree :
    loaded.flag .rbValid = true ∧ config.rbBase ≤ 0x8C ∧ 0x8C + 1 ≤ 0xFF := by decide +kernel

/-- LDCAL: not loaded, locked, and free to decode. -/
theorem witness_Ldcal_clauses :
    State.reset.flag .rbValid = false ∧ (calibrated.flag .rbValid = true ∧ calibrated.flag .calValid = true) ∧
      (loaded.flag .rbValid = true ∧ loaded.flag .calValid = false ∧ BufferHolds buf1At loaded) :=
  ⟨by decide +kernel, by decide +kernel, by decide +kernel, by decide +kernel, loaded_holds_buf1⟩

theorem witness_Unpack_clauses :
    State.reset.flag .rbValid = false ∧ loaded.flag .rbValid = true ∧ BufferHolds buf1At loaded :=
  ⟨by decide +kernel, by decide +kernel, loaded_holds_buf1⟩

theorem witness_Compt_clauses :
    State.reset.flag .calValid = false ∧ (calibrated.flag .calValid = true ∧ calibrated.flag .rawValid = false) ∧
      (unpacked.flag .calValid = true ∧ unpacked.flag .rawValid = true) := by decide +kernel

/-- COMPP and COMPH: each check failing in turn, and none. -/
theorem witness_Compp_Comph_clauses :
    State.reset.flag .calValid = false ∧ (calibrated.flag .calValid = true ∧ calibrated.flag .rawValid = false) ∧
      (unpacked.flag .calValid = true ∧ unpacked.flag .rawValid = true ∧ unpacked.flag .tfValid = false) ∧
      (withTFine.flag .calValid = true ∧ withTFine.flag .rawValid = true ∧ withTFine.flag .tfValid = true) := by decide +kernel

/-- Both sides of the zero test: vectors V-P1 and V-P2. -/
theorem witness_divisor_clauses :
    (config.pressBody.divisor 119365 36477 (-10685) 3024 2855 140 (-7)).1 = 599247727 ∧
      (config.pressBody.divisor 119365 0 (-10685) 3024 2855 140 (-7)).1 = 0 := by decide

theorem witness_ZeroDivisorGivesTheSentinel :
    let s := { withTFine with cal := { calibration1 with digP1 := 0 } }
    ∃ t, (s.flag .calValid = true ∧ s.flag .rawValid = true ∧ s.flag .tfValid = true ∧ comppIn config s = .next t) ∧
      (config.pressBody.divisor t.tFine.toInt t.cal.digP1.toNat t.cal.digP2.toInt t.cal.digP3.toInt t.cal.digP4.toInt
        t.cal.digP5.toInt t.cal.digP6.toInt).1 = 0 :=
  ⟨_, ⟨by decide, by decide, by decide, rfl⟩, by decide⟩

theorem witness_ZeroDivisorGivesTheSentinel_sample :
    let s := { calibrated with cal := { calibration1 with digP1 := 0 } }
    ∃ t, (s.flag .rbValid = true ∧ s.flag .calValid = true ∧ sampleIn config s = .next t) ∧ t.cal.digP1 = 0 :=
  ⟨_, ⟨by decide +kernel, by decide +kernel, rfl⟩, rfl⟩

/-- A divisor that is not zero (`DefaultPressureBody`), and the ends of the products of `DefaultDivisorVanishesExactly`. -/
theorem witness_DefaultPressureBody_clauses :
    (599247727 : Int) ≠ 0 ∧
      (140737488355328 + pressC (1176576 - 128000) (-32768) 0) * 1 = 0 ∧
      (140737488355328 + pressC (1176576 - 128000) (-32768) (-1)) * 1 = -4294967296 := by decide

/-- A configuration with a body of R60's shape (a sum of the inputs and a constant, less `dig_h1`) whose unclamped humidity
is a chosen number on `withTFine`: there the inputs add up to 151167, and `dig_h1` is 75. -/
def humConfig (y : Int) : Config :=
  let sum := [HumInput.adcH, .tFine, .h2, .h3, .h4, .h5, .h6].foldl (fun e i => IntExpr.add e (.var i)) (.const (y - 151092))
  { config with humBody := ⟨sum, .var .h1⟩ }

/-- Vector V-H8: the clamp at its boundaries. -/
theorem witness_HumidityIsClamped_boundaries :
    (humConfig 0).wellFormed = true ∧
    nextHas (comphIn (humConfig (-1)) withTFine) (fun t => t.hum == 0 && t.flag .hClampLo) = true ∧
    nextHas (comphIn (humConfig 0) withTFine) (fun t => t.hum == 0 && !t.flag .hClampLo) = true ∧
    nextHas (comphIn (humConfig 4096) withTFine) (fun t => t.hum == 1) = true ∧
    nextHas (comphIn (humConfig 419430400) withTFine) (fun t => t.hum == 102400 && !t.flag .hClampHi) = true ∧
    nextHas (comphIn (humConfig 419430401) withTFine) (fun t => t.hum == 102400 && t.flag .hClampHi) = true := by decide

theorem witness_HumidityIsClamped :
    (∃ t, withTFine.flag .calValid = true ∧ withTFine.flag .rawValid = true ∧ withTFine.flag .tfValid = true ∧
      comphIn config withTFine = .next t) ∧
    ∃ t, calibrated.flag .rbValid = true ∧ calibrated.flag .calValid = true ∧ sampleIn config calibrated = .next t :=
  ⟨⟨_, by decide, by decide, by decide, rfl⟩, ⟨_, by decide +kernel, by decide +kernel, rfl⟩⟩

theorem witness_Sample_clauses :
    State.reset.flag .rbValid = false ∧ (loaded.flag .rbValid = true ∧ loaded.flag .calValid = false) ∧
      (calibrated.flag .rbValid = true ∧ calibrated.flag .calValid = true) := by decide +kernel

theorem witness_PressureAndHumidityCommute :
    withTFine.flag .calValid = true ∧ withTFine.flag .rawValid = true ∧ withTFine.flag .tfValid = true := by decide

theorem witness_RecomputingChangesNothing :
    (∃ t, exec .compt unpacked = .next t ∧ t.output = some (.response .ok)) ∧
      (∃ t, exec .compp withTFine = .next t ∧ t.output = some (.response .ok)) ∧
      (∃ t, exec .comph withTFine = .next t ∧ t.output = some (.response .ok)) ∧
      (∃ t, exec .sample calibrated = .next t ∧ t.output = some (.response .ok)) :=
  ⟨⟨_, rfl, rfl⟩, ⟨_, rfl, rfl⟩, ⟨_, rfl, rfl⟩, ⟨_, rfl, rfl⟩⟩

/-- Two states that differ outside an output's arguments. -/
theorem witness_OutputsDependOnTheirArgumentsAlone :
    let s' := { withTFine with res := 7, hum := 3, raw := { raw1 with adcP := 0 } }
    (∃ t t', exec .comph withTFine = .next t ∧ exec .comph s' = .next t' ∧ t.output = some (.response .ok) ∧
      t'.output = some (.response .ok)) ∧
    (∀ r, r ∈ [Reg.adcH, .tFine, .digH1, .digH2, .digH3, .digH4, .digH5, .digH6] →
      withTFine.regWord r = s'.regWord r) :=
  ⟨⟨_, _, rfl, rfl, rfl, rfl⟩, by decide⟩

theorem witness_OutputsDependOnTheirArgumentsAlone_temp_press :
    let s' := { withTFine with res := 7, hum := 3, raw := { raw1 with adcH := 0 } }
    (∃ t t', exec .compt withTFine = .next t ∧ exec .compt s' = .next t' ∧ t.output = some (.response .ok) ∧
      t'.output = some (.response .ok)) ∧
    (∃ t t', exec .compp withTFine = .next t ∧ exec .compp s' = .next t' ∧ t.output = some (.response .ok) ∧
      t'.output = some (.response .ok)) ∧
    (∀ r, r ∈ [Reg.adcT, .digT1, .digT2, .digT3] → withTFine.regWord r = s'.regWord r) ∧
    (∀ r, r ∈ [Reg.adcP, .tFine, .digP1, .digP2, .digP3, .digP4, .digP5, .digP6, .digP7, .digP8, .digP9] →
      withTFine.regWord r = s'.regWord r) :=
  ⟨⟨_, _, rfl, rfl, rfl, rfl⟩, ⟨_, _, rfl, rfl, rfl, rfl⟩, by decide, by decide⟩

/-- The ends of the declared ranges (R16, R17) and of `t_fine` (R18). -/
theorem witness_intermediate_ranges :
    Within 0 1048575 1048575 ∧ Within 0 0 65535 ∧ Within (-32768) (-32768) 32767 ∧ Within (-32768) 32767 32767 ∧
      Within (-4194224) (-4194224) 4194144 ∧ Within 0 255 255 ∧ Within 0 4095 4095 ∧
      (∀ p, p ∈ List.replicate 8 (-32768 : Int) → Within (-32768) p 32767) := by
  refine ⟨?_, ?_, ?_, ?_, ?_, ?_, ?_, fun p hp => ?_⟩
  all_goals first
    | (rw [List.eq_of_mem_replicate hp]; exact ⟨by decide, by decide⟩)
    | exact ⟨by decide, by decide⟩

theorem witness_CommandsKeepWhatTheyDoNotWrite : ∃ t, exec .sample calibrated = .next t := ⟨_, rfl⟩

theorem witness_CalibrationIsLockedForTheSession :
    let s := calibrated.withFetchWord 16 0x1000
    (∃ t, step s = .next t) ∧ s.flag .calValid = true ∧ (∀ rest, s.actions ≠ .reset :: rest) :=
  ⟨⟨_, rfl⟩, by decide +kernel, fun rest h => by simp [State.withFetchWord] at h⟩

theorem witness_OnlyTemperatureWritesTFine :
    nextHas (step (unpacked.withFetchWord 16 0x2000)) (fun t => t.tFine != unpacked.tFine) = true := by decide

theorem witness_NewSampleInvalidatesTFine :
    calibrated.flag .rbValid = true ∧ calibrated.flag .calValid = true := by decide +kernel

/-- A step that is neither COMPT nor SAMPLE, and a COMPP, from a state with `TF_VALID = 0`. -/
theorem witness_NewSampleInvalidatesTFine_between :
    (let s := unpacked.withFetchWord 16 0x2100
     (∃ t, step s = .next t) ∧ s.flag .tfValid = false ∧
       s.actions = [.command 0x2100] ∧ decode 0x2100 ≠ .ok .compt ∧ decode 0x2100 ≠ .ok .sample) ∧
    ∃ t, exec .compp unpacked = .next t ∧ unpacked.flag .calValid = true ∧ unpacked.flag .rawValid = true :=
  ⟨⟨⟨_, rfl⟩, by decide, rfl, by decide, by decide⟩, _, rfl, by decide, by decide⟩

/-- The `T_FINE` of vector V-P1 and the ends of its interval (`ComppComputesPressure`), and a pressure that fits
(`PressKeepsTheLowBits`). -/
theorem witness_press_clauses :
    (-4194224 ≤ withTFine.tFine.toInt ∧ withTFine.tFine.toInt ≤ 4194144) ∧
    ({ withTFine with tFine := BitVec.ofInt 32 (-4194224) }.tFine.toInt = -4194224) ∧
    ({ withTFine with tFine := 4194144 }.tFine.toInt = 4194144) ∧
    (compPOf config withTFine.raw withTFine.tFine withTFine.cal).1 = 25697540 ∧
    (-(2 ^ 127) : Int) ≤ 25697540 ∧ (25697540 : Int) < 2 ^ 127 := by decide

theorem witness_ResetInvalidatesEverything : { sampled with actions := [.reset] }.actions = .reset :: [] := rfl

/-- A load of the right length and of one byte less. -/
theorem witness_LoadReplacesTheBuffer :
    { sampled with actions := [.load buf1] }.actions = .load buf1 :: [] ∧ buf1.length = 0x100 - config.rbBase ∧
      (buf1.take 119).length ≠ 0x100 - config.rbBase := by decide +kernel

/-- A valid register, one whose flag is 0, and an index outside the table. -/
theorem witness_ReadPortPresentsRegisters :
    ((0x02, Reg.temp) ∈ readPortTable ∧ sampled.regValid .temp = true) ∧
      ((0x21, Reg.digH6) ∈ readPortTable ∧ State.reset.regValid .digH6 = false) ∧
      (0x22 : RegIndex) ∉ readPortTable.map Prod.fst := by decide

theorem witness_StepKeepsTheBufferInOrder :
    ({ State.reset with actions := [.load buf1] }).BufferInOrder config ∧
      ∃ t, step { State.reset with actions := [.load buf1] } = .next t :=
  ⟨⟨Memory.nil_wf, fun a b h => by simp [State.reset] at h, fun h => absurd h (by decide +kernel)⟩, _, rfl⟩

/-- The state after a whole sample has its status in order and its outputs coherent (program P1). -/
theorem witness_status_and_outputs_in_order :
    sampled.StatusInOrder ∧ sampled.OutputsCoherent config ∧ ∃ t, step (sampled.withFetchWord 16 0x2000) = .next t :=
  ⟨⟨by decide, by decide, by decide, by decide, by decide, by decide, by decide, by decide, by decide, by decide,
      by decide⟩,
    ⟨by decide, by decide, by decide, by decide⟩, _, rfl⟩

theorem witness_ReachableStatesMeetTheInvariant : Reachable { State.reset with actions := [] ++ [.command 0x2000] } :=
  Reachable.offer State.reset [.command 0x2000] Reachable.reset

theorem witness_ValidOutputsArePhysicalQuantities :
    sampled.flag .hValid = true ∧ sampled.flag .tValid = true ∧ sampled.flag .pValid = true ∧
      { sampled with status := 0x017F, press := 0 }.flag .pUndef = true := by decide

/-- Two different states that agree on all that is specified: right after reset, with other bits in `T_FINE`. -/
theorem witness_UnspecifiedValuesAreNeverObserved :
    AgreeOnSpecified State.reset { State.reset with tFine := 5 } ∧ ∃ t, step State.reset = .next t :=
  ⟨⟨rfl, rfl, rfl, rfl, fun r h => by cases r <;> first | rfl | exact absurd h (by decide), fun _ _ => rfl⟩, _, rfl⟩

end Sys2Proof.Tests
end

section
/-! PROOFS. The configuration that `exec` runs is well formed and has the defaults (R7, R27, R55, R60): one lemma for each
part of `Config.wellFormed`. -/

namespace Sys2Proof
open Machine

/-- `Config.wellFormed` is R55's shape, R60's shape, and R27's bounds on every field of the map. -/
theorem Config.wellFormed_iff (cfg : Config) :
    cfg.wellFormed = true ↔
      cfg.pressBody.wellFormed = true ∧ cfg.humBody.wellFormed = true ∧
        ∀ f ∈ cfg.addrMap.fields, cfg.rbBase ≤ f.1 ∧ f.1 + f.2 ≤ 0x100 := by
  simp only [Config.wellFormed, Bool.and_eq_true, List.all_eq_true, decide_eq_true_eq, and_assoc]

/-- The default refinement reads the quotient and `dig_p7 .. dig_p9` (R55). -/
theorem defaultPressBody_wellFormed : defaultPressBody.wellFormed = true := by decide

/-- The default first stage reads all its inputs, and the default correction reads `dig_h1` (R60). -/
theorem defaultHumBody_wellFormed : defaultHumBody.wellFormed = true := by decide

/-- R27's table of addresses and widths, in the order of `AddrMap.fields`. -/
theorem defaultAddrMap_fields :
    defaultAddrMap.fields =
      [(0x88, 2), (0x8A, 2), (0x8C, 2), (0x8E, 2), (0x90, 2), (0x92, 2), (0x94, 2), (0x96, 2), (0x98, 2), (0x9A, 2),
       (0x9C, 2), (0x9E, 2), (0xA1, 1), (0xE1, 2), (0xE3, 1), (0xE4, 3), (0xE7, 1), (0xF7, 3), (0xFA, 3), (0xFD, 2)] := rfl

/-- Every field of the default map lies in `RB_BASE .. 0xFF` (R27). -/
theorem defaultAddrMap_fields_in_buffer :
    ∀ f ∈ defaultAddrMap.fields, config.rbBase ≤ f.1 ∧ f.1 + f.2 ≤ 0x100 := by
  rw [defaultAddrMap_fields]
  decide

theorem config_wellFormed : config.wellFormed = true :=
  config.wellFormed_iff.mpr
    ⟨defaultPressBody_wellFormed, defaultHumBody_wellFormed, defaultAddrMap_fields_in_buffer⟩

/-- Settles O45: well-formedness part by part; the parameters are those `config` is built from. -/
theorem defaultConfigurationIsWellFormed : Obligations.DefaultConfigurationIsWellFormed :=
  ⟨config_wellFormed, rfl, rfl, rfl, rfl, defaultAddrMap_fields⟩

end Sys2Proof
end

section
/-! PROOFS. What a step keeps, said once for all invariants: a predicate that loads, faults and effects keep, and that the
host's side does not touch, is kept by every step but a reset (spec/20_memory.md R35; spec/60_exceptions.md R71, R76). -/

namespace Sys2Proof.Machine

/-! A load writes the buffer and `RB_VALID` alone (R26) -/

section Load

variable (bytes : List Byte) (s : State)

/-- The two ways a load can end, in one form. -/
theorem hostLoad_cases : ∃ rb b, hostLoad bytes s = { s with rb := rb }.setFlag .rbValid b := by
  by_cases h : bytes.length = rbLen config
  · exact ⟨_, true, hostLoadIn_right s h⟩
  · exact ⟨_, false, hostLoadIn_wrong s h⟩

@[simp] theorem hostLoad_cal : (hostLoad bytes s).cal = s.cal := by
  obtain ⟨rb, b, h⟩ := hostLoad_cases bytes s; simp [h]
@[simp] theorem hostLoad_raw : (hostLoad bytes s).raw = s.raw := by
  obtain ⟨rb, b, h⟩ := hostLoad_cases bytes s; simp [h]
@[simp] theorem hostLoad_tFine : (hostLoad bytes s).tFine = s.tFine := by
  obtain ⟨rb, b, h⟩ := hostLoad_cases bytes s; simp [h]
@[simp] theorem hostLoad_temp : (hostLoad bytes s).temp = s.temp := by
  obtain ⟨rb, b, h⟩ := hostLoad_cases bytes s; simp [h]
@[simp] theorem hostLoad_press : (hostLoad bytes s).press = s.press := by
  obtain ⟨rb, b, h⟩ := hostLoad_cases bytes s; simp [h]
@[simp] theorem hostLoad_hum : (hostLoad bytes s).hum = s.hum := by
  obtain ⟨rb, b, h⟩ := hostLoad_cases bytes s; simp [h]
@[simp] theorem hostLoad_actions : (hostLoad bytes s).actions = s.actions := by
  obtain ⟨rb, b, h⟩ := hostLoad_cases bytes s; simp [h]
@[simp] theorem hostLoad_err : (hostLoad bytes s).err = s.err := by
  obtain ⟨rb, b, h⟩ := hostLoad_cases bytes s; simp [h, State.err]
@[simp] theorem hostLoad_reserved : getReserved (hostLoad bytes s).status = getReserved s.status := by
  obtain ⟨rb, b, h⟩ := hostLoad_cases bytes s; simp [h]

@[simp] theorem hostLoad_flag {f : Flag} (hf : f ≠ .rbValid) : (hostLoad bytes s).flag f = s.flag f := by
  obtain ⟨rb, b, h⟩ := hostLoad_cases bytes s
  simp [h, hf, State.flag]

end Load

/-- A list of checks holds when its first check and the rest do (R71). -/
theorem firstFailing_cons_eq_none (b : Bool) (c : FaultCode) (rest : List (Bool × FaultCode)) :
    firstFailing ((b, c) :: rest) = none ↔ b = true ∧ firstFailing rest = none := by
  cases b <;> simp

/-- A predicate that says nothing of the host's side and that every move other than a reset keeps. A command's effect is
asked about only where the command's checks hold, and `ERR` only where a fault latches it. -/
structure StepInvariant (P : State → Prop) : Prop where
  host : ∀ {s : State} (actions : List HostAction) (output : Option Output) (draws : Nat), P s →
    P { s with actions := actions, output := output, draws := draws }
  load : ∀ {s : State} (bytes : List Byte), P s → P (hostLoad bytes s)
  latch : ∀ {s : State} (c : FaultCode), P s → s.err = 0 → P (s.setErr c.code)
  effect : ∀ {s : State} (i : Instr), P s → firstFailing (checksOf config i s) = none → P (effectOf config i s)

namespace StepInvariant

variable {P : State → Prop} (inv : StepInvariant P)
include inv

theorem answer {s : State} (o : Output) (hs : P s) : P (s.answer o) :=
  inv.host s.actions (some o) s.draws hs

theorem raiseFault {s : State} (c : FaultCode) (hs : P s) : P (raiseFault c s) := by
  unfold Machine.raiseFault
  split
  · next h => exact inv.answer _ (inv.latch c hs h)
  · exact inv.answer _ hs

theorem exec {i : Instr} {s t : State} (hs : P s) (h : exec i s = .next t) : P t := by
  obtain ⟨c, -, rfl⟩ | ⟨hok, rfl⟩ := exec_cases h
  · exact inv.raiseFault c hs
  · exact inv.answer _ (inv.effect i hs hok)

/-- The induction step of a run: what a reset gives is the caller's to show. -/
theorem step {s t : State} (hs : P s) (h : step s = .next t)
    (hreset : ∀ rest, s.actions = .reset :: rest → P (hostReset { s with actions := rest })) : P t := by
  obtain ⟨-, rfl⟩ | ⟨a, rest, hact, hmove⟩ := step_cases h
  · exact hs
  have htaken : P { s with actions := rest } := inv.host rest s.output s.draws hs
  obtain ⟨rfl, rfl⟩ | ⟨bytes, rfl, rfl⟩ | ⟨idx, rfl, rfl⟩ | ⟨w, i, rfl, -, hexec⟩ | ⟨w, e, rfl, -, rfl⟩ := hmove
  · exact hreset rest hact
  · exact inv.load bytes htaken
  · obtain ⟨w, n, hread⟩ := hostRead_cases idx { s with actions := rest }
    rw [hread]
    exact inv.host rest _ n htaken
  · exact inv.exec htaken hexec
  · exact inv.raiseFault _ htaken

/-- The form for a rule that ends with a reset. -/
theorem step_of_not_reset {s t : State} (hs : P s) (h : Machine.step s = .next t)
    (hreset : ∀ rest, s.actions ≠ .reset :: rest) : P t :=
  inv.step hs h fun rest hact => absurd hact (hreset rest)

end StepInvariant

end Sys2Proof.Machine
end

section
/-! PROOFS. Frames of the commands, by what each is listed as writing: a register field, a flag, the buffer, the host's
side (spec/10_state.md R16 to R21; spec/20_memory.md R25). -/

namespace Sys2Proof.Machine

open Sys2Proof.Claims

section Frames

variable (cfg : Config) (i : Instr) (s : State)

@[simp] theorem effectOf_rb : (effectOf cfg i s).rb = s.rb := by cases i <;> simp [effectOf]

@[simp] theorem effectOf_actions : (effectOf cfg i s).actions = s.actions := by cases i <;> simp [effectOf]

@[simp] theorem effectOf_draws : (effectOf cfg i s).draws = s.draws := by cases i <;> simp [effectOf]

@[simp] theorem effectOf_err : (effectOf cfg i s).err = s.err := by cases i <;> simp [effectOf]

@[simp] theorem effectOf_reserved : getReserved (effectOf cfg i s).status = getReserved s.status := by
  cases i <;> simp [effectOf]

variable {i}

theorem effectOf_res (h : .res ∉ writtenRegs i) : (effectOf cfg i s).res = s.res := by
  cases i <;> simp_all [effectOf, writtenRegs]

theorem effectOf_temp (h : .temp ∉ writtenRegs i) : (effectOf cfg i s).temp = s.temp := by
  cases i <;> simp_all [effectOf, writtenRegs]

theorem effectOf_press (h : .press ∉ writtenRegs i) : (effectOf cfg i s).press = s.press := by
  cases i <;> simp_all [effectOf, writtenRegs]

theorem effectOf_hum (h : .hum ∉ writtenRegs i) : (effectOf cfg i s).hum = s.hum := by
  cases i <;> simp_all [effectOf, writtenRegs]

theorem effectOf_tFine (h : .tFine ∉ writtenRegs i) : (effectOf cfg i s).tFine = s.tFine := by
  cases i <;> simp_all [effectOf, writtenRegs]

/-- The registers of the RawSample are written together (R17). -/
theorem effectOf_raw {r : Reg} (hr : r.validFlag = some .rawValid) (h : r ∉ writtenRegs i) :
    (effectOf cfg i s).raw = s.raw := by
  have hmem : r ∈ writtenRegs .unpack ∧ r ∈ writtenRegs .sample := by
    cases r <;> simp_all [Reg.validFlag, writtenRegs]
  cases i <;> simp_all [effectOf]

/-- The registers of the CalibrationSet are written together (R16). -/
theorem effectOf_cal {r : Reg} (hr : r.validFlag = some .calValid) (h : r ∉ writtenRegs i) :
    (effectOf cfg i s).cal = s.cal := by
  have hmem : r ∈ writtenRegs .ldcal := by
    cases r <;> simp_all [Reg.validFlag, writtenRegs]
  cases i <;> simp_all [effectOf]

/-- A command keeps every register it is not listed as writing, as the read port shows it (R16 to R20). -/
theorem effectOf_regWord {r : Reg} (hstatus : r ≠ .status) (h : r ∉ writtenRegs i) :
    (effectOf cfg i s).regWord r = s.regWord r := by
  cases r with
  | status => exact absurd rfl hstatus
  | res => rw [State.regWord, State.regWord, effectOf_res cfg s h]
  | temp => rw [State.regWord, State.regWord, effectOf_temp cfg s h]
  | press => rw [State.regWord, State.regWord, effectOf_press cfg s h]
  | hum => rw [State.regWord, State.regWord, effectOf_hum cfg s h]
  | tFine => rw [State.regWord, State.regWord, effectOf_tFine cfg s h]
  | adcT | adcP | adcH => rw [State.regWord, State.regWord, effectOf_raw cfg s rfl h]
  | _ => rw [State.regWord, State.regWord, effectOf_cal cfg s rfl h]

/-- A command keeps every flag it is not listed as writing (R21). -/
theorem effectOf_flag {f : Flag} (h : f ∉ writtenFlags i) : (effectOf cfg i s).flag f = s.flag f := by
  cases i with
  | unpack | sample => cases f <;> simp_all [effectOf, sampleEffect, writtenFlags, Flag.ofSample]
  | _ => simp_all [effectOf, writtenFlags]

/-- Taking a fault keeps every register but `STATUS` (R76). -/
theorem raiseFault_regWord (c : FaultCode) {r : Reg} (hstatus : r ≠ .status) :
    (raiseFault c s).regWord r = s.regWord r := by
  cases r <;> simp_all [State.regWord]

end Frames

/-- `exec` never touches the host's list (R35). -/
theorem exec_actions {i : Instr} {s t : State} (h : exec i s = .next t) : t.actions = s.actions := by
  obtain ⟨c, -, rfl⟩ | ⟨-, rfl⟩ := exec_cases h <;> simp

/-- Settles O37: on a fault only `ERR` and the response change; otherwise the frame of the effect. -/
theorem commandsKeepWhatTheyDoNotWrite : Obligations.CommandsKeepWhatTheyDoNotWrite := by
  intro i s t h
  obtain ⟨c, -, rfl⟩ | ⟨-, rfl⟩ := exec_cases h
  · exact ⟨fun r hr _ => raiseFault_regWord s c hr, fun f _ => raiseFault_flag c s f, raiseFault_reserved c s,
      by simp, by simp, by simp, by simp⟩
  · exact ⟨fun r hr hw => effectOf_regWord config s hr hw, fun f hf => effectOf_flag config s hf,
      effectOf_reserved config i s, by simp, by simp, by simp, by simp⟩

end Sys2Proof.Machine
end

section
/-! PROOFS. The rules of a step: the order of the host's actions, `ERR` until reset, the lock of the constants, the writers of
`T_FINE` (spec/10_state.md R14 to R18, R21; spec/20_memory.md R35; spec/60_exceptions.md R77). -/

namespace Sys2Proof.Machine

open Sys2Proof.Claims

/-- Settles O7: the action at the head is taken, and its word decodes. -/
theorem stepRunsTheDecodedCommand : Obligations.StepRunsTheDecodedCommand := by
  intro s w rest i hact hdec
  rw [step_action hact, runAction, runWord, hdec]

/-- Settles O9: no move of the machine touches the rest of the list. -/
theorem actionsAreTakenInOrder : Obligations.ActionsAreTakenInOrder := by
  refine ⟨fun s hs => step_idle hs, fun s t a rest hact h => ?_⟩
  obtain ⟨hnil, -⟩ | ⟨a', rest', hact', hmove⟩ := step_cases h
  · simp [hnil] at hact
  obtain ⟨rfl, rfl⟩ : a = a' ∧ rest = rest' := List.cons.inj (hact.symm.trans hact')
  obtain ⟨-, rfl⟩ | ⟨bytes, -, rfl⟩ | ⟨idx, -, rfl⟩ | ⟨w, i, -, -, hexec⟩ | ⟨w, e, -, -, rfl⟩ := hmove
  · rfl
  · exact hostLoad_actions _ _
  · obtain ⟨w, n, hread⟩ := hostRead_cases idx { s with actions := rest }
    rw [hread]
  · exact exec_actions hexec
  · exact raiseFault_actions _ _

/-- An `ERR` that is not 0 is kept: no fault latches over it (R76). -/
theorem stepInvariant_err {e : BitVec 4} (he : e ≠ 0) : StepInvariant fun u => u.err = e where
  host _ _ _ hs := hs
  load {s} bytes hs := (hostLoad_err bytes s).trans hs
  latch _ hs h0 := absurd (hs.symm.trans h0) he
  effect {s} i hs _ := (effectOf_err config i s).trans hs

/-- Settles O12: `ERR` is an invariant of every step but a reset. -/
theorem errIsStickyUntilReset : Obligations.ErrIsStickyUntilReset := fun _ _ h hreset he =>
  (stepInvariant_err he).step_of_not_reset rfl h hreset

/-- The constants are kept under `CAL_VALID`: LDCAL, their one writer, faults there (R49). -/
theorem stepInvariant_calibration (cal : CalibrationSet) :
    StepInvariant fun u => u.cal = cal ∧ u.flag .calValid = true where
  host _ _ _ hs := hs
  load _ hs := by simpa using hs
  latch _ hs _ := by simpa using hs
  effect {s} i hs hok := by
    obtain ⟨hcal, hvalid⟩ := hs
    by_cases hi : i = .ldcal
    · subst hi
      simp only [checksOf, firstFailing_cons_eq_none, hvalid] at hok
      obtain ⟨-, hfree, -⟩ := hok
      exact absurd hfree Bool.false_ne_true
    · have hregs : .digT1 ∉ writtenRegs i := by cases i <;> simp_all [writtenRegs]
      have hflags : .calValid ∉ writtenFlags i := by cases i <;> simp_all [writtenFlags]
      exact ⟨(effectOf_cal config s rfl hregs).trans hcal, (effectOf_flag config s hflags).trans hvalid⟩

/-- Settles O38: the constants and `CAL_VALID` are an invariant of every step but a reset. -/
theorem calibrationIsLockedForTheSession : Obligations.CalibrationIsLockedForTheSession := fun s _ h hvalid hreset =>
  (stepInvariant_calibration s.cal).step_of_not_reset ⟨rfl, hvalid⟩ h hreset

/-- The writers of `T_FINE` (R18). -/
theorem tFine_mem_writtenRegs {i : Instr} (h : .tFine ∈ writtenRegs i) : i = .compt ∨ i = .sample := by
  cases i <;> simp_all [writtenRegs]

theorem exec_tFine {i : Instr} {s t : State} (h : exec i s = .next t) (hne : t.tFine ≠ s.tFine) :
    i = .compt ∨ i = .sample := by
  obtain ⟨c, -, rfl⟩ | ⟨-, rfl⟩ := exec_cases h
  · exact absurd (raiseFault_tFine c s) hne
  · exact tFine_mem_writtenRegs (not_imp_comm.mp (effectOf_tFine config s) hne)

/-- Settles O39: of the moves a step can make, loads, reads, faults and the other commands keep `T_FINE`. -/
theorem onlyTemperatureWritesTFine : Obligations.OnlyTemperatureWritesTFine := by
  intro s t h hne
  obtain ⟨-, rfl⟩ | ⟨a, rest, hact, hmove⟩ := step_cases h
  · exact absurd rfl hne
  refine ⟨a, rest, hact, ?_⟩
  obtain ⟨rfl, -⟩ | ⟨bytes, -, rfl⟩ | ⟨idx, -, rfl⟩ | ⟨w, i, rfl, hdec, hexec⟩ | ⟨w, e, -, -, rfl⟩ := hmove
  · exact .inl rfl
  · exact absurd (hostLoad_tFine _ _) hne
  · obtain ⟨w, n, hread⟩ := hostRead_cases idx { s with actions := rest }
    rw [hread] at hne
    exact absurd rfl hne
  · obtain rfl | rfl := exec_tFine hexec hne
    · exact .inr ⟨w, rfl, .inl hdec⟩
    · exact .inr ⟨w, rfl, .inr hdec⟩
  · exact absurd (raiseFault_tFine _ _) hne

end Sys2Proof.Machine
end

section
/-! PROOFS. `STATUS` stays in order (spec/10_state.md R18, R21; spec/70_reset_and_hazards.md R95 to R97): a lemma for each
command's effect under the command's checks, so that SAMPLE is their composition. -/

namespace Sys2Proof.Machine

/-- `StatusInOrder` looks at the flags other than `RB_VALID` and `RES_VALID`, the reserved bit and `ERR`. -/
theorem State.StatusInOrder.congr {s t : State} (h : s.StatusInOrder)
    (hflag : ∀ f, f ≠ .rbValid → f ≠ .resValid → t.flag f = s.flag f)
    (hres : getReserved t.status = getReserved s.status) (herr : t.err.toNat ≤ 7) : t.StatusInOrder := by
  cases h
  constructor <;> simp_all

/-- A humidity is clamped on one side at most (R63). -/
theorem compHOf_not_both_clamps (cfg : Config) (raw : RawSample) (tFine : BitVec 32) (cal : CalibrationSet) :
    ¬ ((compHOf cfg raw tFine cal).2.1 = true ∧ (compHOf cfg raw tFine cal).2.2 = true) := by
  simp only [compHOf, compH]
  generalize humUnclamped _ _ _ _ _ _ _ _ _ = y
  obtain ⟨-, h⟩ | ⟨-, h⟩ | ⟨-, -, h⟩ := humClamp_cases y <;> simp [h]

section Effects

variable {cfg : Config} {s : State} (h : s.StatusInOrder)
include h

theorem setResult_statusInOrder (v : Int) : (setResult v s).StatusInOrder :=
  h.congr (fun f _ hf => by simp [hf]) (by simp) (by simpa using h.errCode)

/-- LDCAL runs only with `CAL_VALID = 0`, but setting the flag breaks nothing in any state. -/
theorem ldcalEffect_statusInOrder : (ldcalEffect cfg s).StatusInOrder := by
  cases h
  constructor <;> simp_all

/-- UNPACK clears every flag that rests on another. -/
theorem unpackEffect_statusInOrder : (unpackEffect cfg s).StatusInOrder := by
  cases h
  constructor <;> simp_all [Flag.ofSample]

/-- COMPT sets `TF_VALID` with `T_VALID`, where both flags they rest on are set (R71). -/
theorem comptEffect_statusInOrder (hcal : s.flag .calValid = true) (hraw : s.flag .rawValid = true) :
    (comptEffect cfg s).StatusInOrder := by
  cases h
  constructor <;> simp_all

/-- COMPP sets `P_VALID`, whatever it writes to `P_UNDEF`, where `TF_VALID` is set (R71). -/
theorem comppEffect_statusInOrder (htf : s.flag .tfValid = true) : (comppEffect cfg s).StatusInOrder := by
  cases h
  constructor <;> simp_all

/-- COMPH sets `H_VALID`, whatever the clamp gives, where `TF_VALID` is set (R71). -/
theorem comphEffect_statusInOrder (htf : s.flag .tfValid = true) : (comphEffect cfg s).StatusInOrder := by
  cases h
  have hone := compHOf_not_both_clamps cfg s.raw s.tFine s.cal
  constructor <;> simp_all

/-- SAMPLE is the four effects in order, each leaving what the next rests on (R64). -/
theorem sampleEffect_statusInOrder (hcal : s.flag .calValid = true) : (sampleEffect cfg s).StatusInOrder := by
  have hu := unpackEffect_statusInOrder (cfg := cfg) h
  have ht := comptEffect_statusInOrder (cfg := cfg) hu (by simp [Flag.ofSample, hcal]) (by simp)
  have hp := comppEffect_statusInOrder (cfg := cfg) ht (by simp)
  exact comphEffect_statusInOrder hp (by simp)

/-- Every command whose checks hold keeps `STATUS` in order. -/
theorem effectOf_statusInOrder {i : Instr} (hok : firstFailing (checksOf cfg i s) = none) :
    (effectOf cfg i s).StatusInOrder := by
  cases i with
  | rdu16 a => exact setResult_statusInOrder h _
  | rds16 a => exact setResult_statusInOrder h _
  | ldcal => exact ldcalEffect_statusInOrder h
  | unpack => exact unpackEffect_statusInOrder h
  | compt =>
    simp only [checksOf, firstFailing_cons_eq_none] at hok
    obtain ⟨hcal, hraw, -⟩ := hok
    exact comptEffect_statusInOrder h hcal hraw
  | compp =>
    simp only [checksOf, tFineChecks, firstFailing_cons_eq_none] at hok
    obtain ⟨-, -, htf, -⟩ := hok
    exact comppEffect_statusInOrder h htf
  | comph =>
    simp only [checksOf, tFineChecks, firstFailing_cons_eq_none] at hok
    obtain ⟨-, -, htf, -⟩ := hok
    exact comphEffect_statusInOrder h htf
  | sample =>
    simp only [checksOf, firstFailing_cons_eq_none] at hok
    obtain ⟨-, hcal, -⟩ := hok
    exact sampleEffect_statusInOrder h hcal

end Effects

/-- `STATUS` in order is an invariant: a latched code is one of R70. -/
theorem stepInvariant_statusInOrder : StepInvariant State.StatusInOrder where
  host _ _ _ hs := hs.congr (fun _ _ _ => rfl) rfl hs.errCode
  load bytes hs := hs.congr (fun _ hf _ => hostLoad_flag _ _ hf) (by simp) (by simpa using hs.errCode)
  latch c hs _ := hs.congr (fun _ _ _ => by simp) (by simp) (by simpa using c.code_le_seven)
  effect _ hs hok := effectOf_statusInOrder hs hok

/-- After a reset no flag is set (R87). -/
@[simp] theorem hostReset_status (s : State) : (hostReset s).status = 0 := rfl

theorem hostReset_flag (s : State) (f : Flag) : (hostReset s).flag f = false := by
  simp [State.flag, getFlag]

theorem hostReset_statusInOrder (s : State) : (hostReset s).StatusInOrder := by
  constructor <;> simp [hostReset_flag, State.err, getErr, getReserved]

/-- Settles O48: the invariant's step, with the state after a reset. -/
theorem stepKeepsStatusInOrder : Obligations.StepKeepsStatusInOrder := fun _ _ hs h =>
  stepInvariant_statusInOrder.step hs h fun _ _ => hostReset_statusInOrder _

end Sys2Proof.Machine
end

section
/-! PROOFS. The registers hold the formulas' values exactly (spec/41_compensation.md R66): interval arithmetic for the
temperature, and for the pressure of the default body (log 3). -/

namespace Sys2Proof.Machine

open Sys2Proof.Claims

/-! ### Intervals -/

/-- A product lies between the least and the greatest product of the ends of its factors' intervals. -/
theorem within_mul {la a ha lb b hb lo hi : Int} (h1 : Within la a ha) (h2 : Within lb b hb)
    (corners : ∀ x ∈ [la * lb, la * hb, ha * lb, ha * hb], lo ≤ x ∧ x ≤ hi) : Within lo (a * b) hi := by
  obtain ⟨hla, hha⟩ := h1
  obtain ⟨hlb, hhb⟩ := h2
  simp only [List.mem_cons, List.not_mem_nil, or_false, forall_eq_or_imp, forall_eq] at corners
  obtain ⟨c1, c2, c3, c4⟩ := corners
  rcases le_total 0 b with hb0 | hb0
  · have hlow : la * b ≤ a * b := mul_le_mul_of_nonneg_right hla hb0
    have hhigh : a * b ≤ ha * b := mul_le_mul_of_nonneg_right hha hb0
    constructor
    · rcases le_total 0 la with hs | hs <;> nlinarith
    · rcases le_total 0 ha with hs | hs <;> nlinarith
  · have hlow : ha * b ≤ a * b := mul_le_mul_of_nonpos_right hha hb0
    have hhigh : a * b ≤ la * b := mul_le_mul_of_nonpos_right hla hb0
    constructor
    · rcases le_total 0 ha with hs | hs <;> nlinarith
    · rcases le_total 0 la with hs | hs <;> nlinarith

/-- A floor shift of an interval. -/
theorem within_asr {lo a hi lo' hi' : Int} (h : Within lo a hi) (n : Nat) (hlo : lo' * 2 ^ n ≤ lo)
    (hhi : hi < (hi' + 1) * 2 ^ n) : Within lo' (asr a n) hi' :=
  ⟨(le_asr_iff _ _ _).mpr (hlo.trans h.1), Int.lt_add_one_iff.mp ((asr_lt_iff _ _ _).mpr (h.2.trans_lt hhi))⟩

/-- A square, from the magnitude of its base. -/
theorem within_square {a A hi : Int} (h : Within (-A) a A) (hhi : A * A ≤ hi) : Within 0 (square a) hi :=
  ⟨square_nonneg a, (square_le (abs_le.mpr h)).trans hhi⟩

/-- A truncating quotient is no larger than the dividend's bound. -/
theorem within_tdiv {a A : Int} (b : Int) (h : Within (-A) a A) : Within (-A) (tdiv a b) A := by
  have hq := natAbs_tdiv_le a b
  obtain ⟨h1, h2⟩ := h
  constructor <;> omega

theorem signedReg_within (v : BitVec 16) : Within (-32768) (signedReg v) 32767 := by
  have h := signedReg_between v
  exact ⟨by omega, by omega⟩

theorem unsignedReg_within {n : Nat} (v : BitVec n) : Within 0 (unsignedReg v) (2 ^ n - 1) := by
  obtain ⟨h1, h2⟩ := unsignedReg_between v
  exact ⟨h1, Int.le_sub_one_of_lt h2⟩

/-! ### Temperature -/

section Temperature

variable {adcT t1 t2 t3 : Int} (hadc : Within 0 adcT 1048575) (ht1 : Within 0 t1 65535)
include hadc ht1

theorem tempD1_within : Within (-131070) (tempD1 adcT t1) 131071 := by
  have h := within_asr hadc 3 (lo' := 0) (hi' := 131071) (by decide) (by decide)
  obtain ⟨h1, h2⟩ := h
  obtain ⟨h3, h4⟩ := ht1
  constructor <;> simp only [tempD1, shl] <;> omega

theorem tempVar1_within (form : TVar1Form) (ht2 : Within (-32768) t2 32767) :
    Within (-2097136) (tempVar1 form (tempD1 adcT t1) t2) 2097120 := by
  have hd := tempD1_within hadc ht1
  cases form with
  | literal =>
    have hs := within_asr ht2 11 (lo' := -16) (hi' := 15) (by decide) (by decide)
    exact within_mul hd hs (by decide)
  | reference =>
    have hp : Within (-4294934528) (tempD1 adcT t1 * t2) 4294901760 := within_mul hd ht2 (by decide)
    exact within_asr hp 11 (by decide) (by decide)

theorem tempVar2_within (ht3 : Within (-32768) t3 32767) :
    Within (-2097088) (tempVar2 (tempE adcT t1) t3) 2097024 := by
  have he : Within (-65535) (tempE adcT t1) 65535 := by
    obtain ⟨h1, h2⟩ := within_asr hadc 4 (lo' := 0) (hi' := 65535) (by decide) (by decide)
    obtain ⟨h3, h4⟩ := ht1
    constructor <;> simp only [tempE] <;> omega
  have hsq := within_square he (hi := 4294836225) (by decide)
  have hs := within_asr hsq 12 (lo' := 0) (hi' := 1048544) (by decide) (by decide)
  have hp : Within (-34358689792) (asr (square (tempE adcT t1)) 12 * t3) 34357641248 := within_mul hs ht3 (by decide)
  exact within_asr hp 14 (by decide) (by decide)

/-- `T_FINE`'s interval (R18). -/
theorem tempTFine_within (form : TVar1Form) (ht2 : Within (-32768) t2 32767) (ht3 : Within (-32768) t3 32767) :
    Within (-4194224) (tempTFine form adcT t1 t2 t3) 4194144 := by
  obtain ⟨h1, h2⟩ := tempVar1_within hadc ht1 form ht2
  obtain ⟨h3, h4⟩ := tempVar2_within hadc ht1 ht3
  constructor <;> simp only [tempTFine] <;> omega

end Temperature

theorem tempCentiDegrees_within {tFine : Int} (h : Within (-4194224) tFine 4194144) :
    Within (-81918) (tempCentiDegrees tFine) 81917 := by
  have hp : Within (-20970992) (tFine * 5 + 128) 20970848 := by
    obtain ⟨h1, h2⟩ := h
    constructor <;> omega
  exact within_asr hp 8 (by decide) (by decide)

theorem compTOf_tFine_within (cfg : Config) (raw : RawSample) (cal : CalibrationSet) :
    Within (-4194224) (compTOf cfg raw cal).2 4194144 :=
  tempTFine_within (unsignedReg_within raw.adcT) (unsignedReg_within cal.digT1) cfg.tVar1Form (signedReg_within _)
    (signedReg_within _)

theorem compTOf_temp_within (cfg : Config) (raw : RawSample) (cal : CalibrationSet) :
    Within (-81918) (compTOf cfg raw cal).1 81917 :=
  tempCentiDegrees_within (compTOf_tFine_within cfg raw cal)

/-- `T_FINE` and `TEMP` hold their values exactly (R8, R66). -/
theorem toInt_tFine (cfg : Config) (raw : RawSample) (cal : CalibrationSet) :
    (BitVec.ofInt 32 (compTOf cfg raw cal).2).toInt = (compTOf cfg raw cal).2 := by
  obtain ⟨h1, h2⟩ := compTOf_tFine_within cfg raw cal
  exact BitVec.toInt_ofInt_eq_self (by decide) (by omega) (by omega)

theorem toInt_temp (cfg : Config) (raw : RawSample) (cal : CalibrationSet) :
    (BitVec.ofInt 32 (compTOf cfg raw cal).1).toInt = (compTOf cfg raw cal).1 := by
  obtain ⟨h1, h2⟩ := compTOf_temp_within cfg raw cal
  exact BitVec.toInt_ofInt_eq_self (by decide) (by omega) (by omega)

/-! ### Pressure, with the default body -/

theorem pressA_within {tFine : Int} (h : Within (-4194224) tFine 4194144) : Within (-4322224) (pressA tFine) 4066144 := by
  obtain ⟨h1, h2⟩ := h
  constructor <;> simp only [pressA] <;> omega

theorem square_pressA_within {a : Int} (h : Within (-4322224) a 4066144) : Within 0 (square a) 18681620306176 :=
  within_square ⟨h.1, h.2.trans (by decide)⟩ (by decide)

theorem pressVar2_within {a p4 p5 p6 : Int} (ha : Within (-4322224) a 4066144) (hp4 : Within (-32768) p4 32767)
    (hp5 : Within (-32768) p5 32767) (hp6 : Within (-32768) p6 32767) :
    Within (-632000000000000000) (pressVar2 a p4 p5 p6) 632000000000000000 := by
  have h6 : Within (-612159334192775168) (square a * p6) 612159334192775168 :=
    within_mul (square_pressA_within ha) hp6 (by decide)
  have h5 : Within (-141630636032) (a * p5) 141630636032 := within_mul ha hp5 (by decide)
  obtain ⟨h6lo, h6hi⟩ := h6
  obtain ⟨h5lo, h5hi⟩ := h5
  obtain ⟨h4lo, h4hi⟩ := hp4
  constructor <;> simp only [pressVar2, shl] <;> omega

/-- The dividend of the one division. -/
theorem pressNum_within {adcP var2 : Int} (hadc : Within 0 adcP 1048575)
    (h : Within (-632000000000000000) var2 632000000000000000) :
    Within (-2000000000000000000000) (pressNum adcP var2) 2000000000000000000000 := by
  obtain ⟨h1, h2⟩ := hadc
  obtain ⟨h3, h4⟩ := h
  constructor <;> simp only [pressNum, pressP0, shl] <;> omega

section Refinement

variable {q p7 p8 p9 : Int} (hq : Within (-2000000000000000000000) q 2000000000000000000000)
include hq

theorem pressW1_within (hp9 : Within (-32768) p9 32767) :
    Within (-58300000000000000000000000000000) (pressW1 q p9) 58300000000000000000000000000000 := by
  have h13 := within_asr hq 13 (lo' := -244140625000000000) (hi' := 244140625000000000) (by decide) (by decide)
  have hsq := within_square h13 (hi := 59604644775390625000000000000000000) (by decide)
  have hp : Within (-1953125000000000000000000000000000000000) (p9 * square (asr q 13))
      1953125000000000000000000000000000000000 := within_mul hp9 hsq (by decide)
  exact within_asr hp 25 (by decide) (by decide)

theorem pressW2_within (hp8 : Within (-32768) p8 32767) :
    Within (-125000000000000000000) (pressW2 q p8) 125000000000000000000 := by
  have hp : Within (-65536000000000000000000000) (p8 * q) 65536000000000000000000000 := within_mul hp8 hq (by decide)
  exact within_asr hp 19 (by decide) (by decide)

/-- The refined pressure, below `2^98` in magnitude (R66). -/
theorem pressFinish_within (hp7 : Within (-32768) p7 32767) (hp8 : Within (-32768) p8 32767)
    (hp9 : Within (-32768) p9 32767) :
    Within (-300000000000000000000000000000) (pressFinish q p7 p8 p9) 300000000000000000000000000000 := by
  have hsum : Within (-60000000000000000000000000000000) (q + pressW1 q p9 + pressW2 q p8)
      60000000000000000000000000000000 := by
    obtain ⟨h1, h2⟩ := pressW1_within hq hp9
    obtain ⟨h3, h4⟩ := pressW2_within hq hp8
    obtain ⟨h5, h6⟩ := hq
    constructor <;> omega
  obtain ⟨h1, h2⟩ := within_asr hsum 8 (lo' := -234375000000000000000000000000)
    (hi' := 234375000000000000000000000000) (by decide) (by decide)
  obtain ⟨h3, h4⟩ := hp7
  constructor <;> simp only [pressFinish, shl] <;> omega

end Refinement

/-- `PRESS`'s interval with the default body: the sentinel 0, or a refined quotient (R55, R66). -/
theorem compPOf_within {cfg : Config} (hbody : cfg.pressBody = defaultPressBody) (raw : RawSample) {tFine : BitVec 32}
    (cal : CalibrationSet) (ht : Within (-4194224) tFine.toInt 4194144) :
    Within (-300000000000000000000000000000) (compPOf cfg raw tFine cal).1 300000000000000000000000000000 := by
  rw [compPOf, hbody]
  by_cases hzero : (defaultPressBody.divisor (signedReg tFine) (unsignedReg cal.digP1) (signedReg cal.digP2)
      (signedReg cal.digP3) (signedReg cal.digP4) (signedReg cal.digP5) (signedReg cal.digP6)).1 = 0
  · rw [compP_of_zero hzero]
    exact ⟨by decide, by decide⟩
  · rw [compP_of_ne_zero hzero, defaultPressBody_refine, defaultPressBody_divisor]
    have hvar2 := pressVar2_within (pressA_within ht) (signedReg_within cal.digP4) (signedReg_within cal.digP5)
      (signedReg_within cal.digP6)
    have hnum := pressNum_within (unsignedReg_within raw.adcP) hvar2
    exact pressFinish_within (within_tdiv _ hnum) (signedReg_within _) (signedReg_within _) (signedReg_within _)

/-- `PRESS` holds its value exactly (R8, R66). -/
theorem toInt_press {cfg : Config} (hbody : cfg.pressBody = defaultPressBody) (raw : RawSample) {tFine : BitVec 32}
    (cal : CalibrationSet) (ht : Within (-4194224) tFine.toInt 4194144) :
    (BitVec.ofInt 128 (compPOf cfg raw tFine cal).1).toInt = (compPOf cfg raw tFine cal).1 := by
  obtain ⟨h1, h2⟩ := compPOf_within hbody raw cal ht
  exact BitVec.toInt_ofInt_eq_self (by decide) (by omega) (by omega)

end Sys2Proof.Machine
end

section
/-! PROOFS. Every valid output stays its formula's value on the current inputs (spec/10_state.md R18;
spec/41_compensation.md R65; spec/70_reset_and_hazards.md R97): a lemma for each command's effect, for every configuration with
the default `PRESS_BODY`. -/

namespace Sys2Proof.Machine

open Sys2Proof.Claims

theorem Flag.ne_rbValid_of_ofSample {f : Flag} (hf : f.ofSample = true) : f ≠ .rbValid := by
  rintro rfl
  cases hf

theorem Flag.ne_resValid_of_ofSample {f : Flag} (hf : f.ofSample = true) : f ≠ .resValid := by
  rintro rfl
  cases hf

/-- `OutputsCoherent` looks at the flags of the sample, the inputs and the outputs. -/
theorem State.OutputsCoherent.congr {cfg : Config} {s t : State} (h : s.OutputsCoherent cfg)
    (hflag : ∀ f, f.ofSample = true → t.flag f = s.flag f) (hcal : t.cal = s.cal) (hraw : t.raw = s.raw)
    (htFine : t.tFine = s.tFine) (htemp : t.temp = s.temp) (hpress : t.press = s.press) (hhum : t.hum = s.hum) :
    t.OutputsCoherent cfg := by
  cases h
  constructor <;> simp_all [Flag.ofSample]

/-- With no valid `T_FINE` no output is valid (R96, R97). -/
theorem outputsCoherent_of_no_tFine {cfg : Config} {s : State} (h : s.StatusInOrder) (htf : s.flag .tfValid = false) :
    s.OutputsCoherent cfg := by
  obtain ⟨-, -, -, -, htemp, hpress, hhum, -⟩ := h
  constructor <;> simp_all

section Effects

variable {cfg : Config} {s : State} (hs : s.StatusInOrder) (h : s.OutputsCoherent cfg)

include h in
theorem setResult_outputsCoherent (v : Int) : (setResult v s).OutputsCoherent cfg :=
  h.congr (fun f hf => by simp [Flag.ne_resValid_of_ofSample hf]) rfl rfl rfl rfl rfl rfl

include hs in
/-- LDCAL runs with `CAL_VALID = 0` only, where no output is valid. -/
theorem ldcalEffect_outputsCoherent (hcal : s.flag .calValid = false) : (ldcalEffect cfg s).OutputsCoherent cfg := by
  refine outputsCoherent_of_no_tFine (ldcalEffect_statusInOrder hs) ?_
  have htf := mt hs.tFineNeedsCal (by simp [hcal])
  simpa using htf

include hs in
/-- UNPACK clears every flag of the old sample. -/
theorem unpackEffect_outputsCoherent : (unpackEffect cfg s).OutputsCoherent cfg :=
  outputsCoherent_of_no_tFine (unpackEffect_statusInOrder hs) (by simp [Flag.ofSample])

include h in
/-- COMPT on unchanged inputs writes the `T_FINE` that is there (R65(d)). -/
theorem comptEffect_tFine_of_valid (htf : s.flag .tfValid = true) : (comptEffect cfg s).tFine = s.tFine := by
  rw [comptEffect_tFine, ← h.tFine htf, BitVec.ofInt_toInt]

include hs h in
/-- COMPT: where `PRESS` or `HUM` is valid, so was the `T_FINE` they were computed from. -/
theorem comptEffect_outputsCoherent : (comptEffect cfg s).OutputsCoherent cfg where
  tFine _ := toInt_tFine cfg s.raw s.cal
  temp _ := toInt_temp cfg s.raw s.cal
  press hv := by
    have hp : s.flag .pValid = true := by simpa using hv
    rw [comptEffect_tFine_of_valid h (hs.pressNeedsTFine hp)]
    simpa using h.press hp
  hum hv := by
    have hh : s.flag .hValid = true := by simpa using hv
    rw [comptEffect_tFine_of_valid h (hs.humNeedsTFine hh)]
    simpa using h.hum hh

include h in
/-- COMPP: the `T_FINE` it reads is a value of CompT, so the pressure fits its register. -/
theorem comppEffect_outputsCoherent (hbody : cfg.pressBody = defaultPressBody) (htf : s.flag .tfValid = true) :
    (comppEffect cfg s).OutputsCoherent cfg where
  tFine hv := h.tFine (by simpa using hv)
  temp hv := h.temp (by simpa using hv)
  press _ := by
    have ht : Within (-4194224) s.tFine.toInt 4194144 := h.tFine htf ▸ compTOf_tFine_within cfg s.raw s.cal
    exact ⟨toInt_press hbody s.raw s.cal ht, by simp⟩
  hum hv := by simpa using h.hum (by simpa using hv)

include h in
/-- COMPH: a clamped humidity always fits its register. -/
theorem comphEffect_outputsCoherent : (comphEffect cfg s).OutputsCoherent cfg where
  tFine hv := h.tFine (by simpa using hv)
  temp hv := h.temp (by simpa using hv)
  press hv := by simpa using h.press (by simpa using hv)
  hum _ := ⟨toNat_hum cfg s.raw s.tFine s.cal, by simp, by simp⟩

include hs in
/-- SAMPLE is the four effects in order, the first of which makes the outputs coherent. -/
theorem sampleEffect_outputsCoherent (hbody : cfg.pressBody = defaultPressBody) :
    (sampleEffect cfg s).OutputsCoherent cfg := by
  have hu := unpackEffect_outputsCoherent (cfg := cfg) hs
  have ht := comptEffect_outputsCoherent (unpackEffect_statusInOrder hs) hu
  exact comphEffect_outputsCoherent (comppEffect_outputsCoherent ht hbody (by simp))

include hs h in
/-- Every command whose checks hold keeps the outputs coherent. -/
theorem effectOf_outputsCoherent {i : Instr} (hbody : cfg.pressBody = defaultPressBody)
    (hok : firstFailing (checksOf cfg i s) = none) : (effectOf cfg i s).OutputsCoherent cfg := by
  cases i with
  | rdu16 a => exact setResult_outputsCoherent h _
  | rds16 a => exact setResult_outputsCoherent h _
  | ldcal =>
    simp only [checksOf, firstFailing_cons_eq_none, Bool.not_eq_true'] at hok
    obtain ⟨-, hcal, -⟩ := hok
    exact ldcalEffect_outputsCoherent hs hcal
  | unpack => exact unpackEffect_outputsCoherent hs
  | compt => exact comptEffect_outputsCoherent hs h
  | compp =>
    simp only [checksOf, tFineChecks, firstFailing_cons_eq_none] at hok
    obtain ⟨-, -, htf, -⟩ := hok
    exact comppEffect_outputsCoherent h hbody htf
  | comph => exact comphEffect_outputsCoherent h
  | sample => exact sampleEffect_outputsCoherent hs hbody

end Effects

/-- `STATUS` in order and the outputs coherent are an invariant together: a valid flag names what it rests on. -/
theorem stepInvariant_outputsCoherent :
    StepInvariant fun u => u.StatusInOrder ∧ u.OutputsCoherent config where
  host actions output draws hs :=
    ⟨stepInvariant_statusInOrder.host actions output draws hs.1, hs.2.congr (fun _ _ => rfl) rfl rfl rfl rfl rfl rfl⟩
  load bytes hs :=
    ⟨stepInvariant_statusInOrder.load bytes hs.1,
      hs.2.congr (fun _ hf => hostLoad_flag _ _ (Flag.ne_rbValid_of_ofSample hf)) (by simp) (by simp) (by simp) (by simp)
        (by simp) (by simp)⟩
  latch c hs h0 :=
    ⟨stepInvariant_statusInOrder.latch c hs.1 h0, hs.2.congr (fun _ _ => by simp) rfl rfl rfl rfl rfl rfl⟩
  effect i hs hok :=
    ⟨stepInvariant_statusInOrder.effect i hs.1 hok, effectOf_outputsCoherent hs.1 hs.2 rfl hok⟩

theorem hostReset_outputsCoherent (cfg : Config) (s : State) : (hostReset s).OutputsCoherent cfg :=
  outputsCoherent_of_no_tFine (hostReset_statusInOrder s) (hostReset_flag s _)

/-- Settles O49: the invariant's step, with the state after a reset. -/
theorem stepKeepsOutputsCoherent : Obligations.StepKeepsOutputsCoherent := by
  intro s t hs hout h
  have hboth := stepInvariant_outputsCoherent.step ⟨hs, hout⟩ h fun _ _ =>
    ⟨hostReset_statusInOrder _, hostReset_outputsCoherent config _⟩
  exact hboth.2

end Sys2Proof.Machine
end

section
/-! PROOFS. The RegisterBuffer stays in order (spec/10_state.md R15; spec/20_memory.md R24 to R26): only a load and a reset
write it. -/

namespace Sys2Proof.Machine

/-- `BufferInOrder` looks at the buffer and `RB_VALID`. -/
theorem State.BufferInOrder.congr {cfg : Config} {s t : State} (h : s.BufferInOrder cfg) (hrb : t.rb = s.rb)
    (hflag : t.flag .rbValid = s.flag .rbValid) : t.BufferInOrder cfg where
  canonical := hrb ▸ h.canonical
  inside := hrb ▸ h.inside
  loaded hv := hrb ▸ h.loaded (hflag ▸ hv)

/-- An empty buffer is in order while `RB_VALID` is 0. -/
theorem bufferInOrder_of_empty {cfg : Config} {s : State} (hrb : s.rb = []) (hflag : s.flag .rbValid = false) :
    s.BufferInOrder cfg where
  canonical := hrb ▸ Memory.nil_wf
  inside a b hread := by simp [hrb] at hread
  loaded hv := by simp [hflag] at hv

/-- A load of `RB_LEN` bytes fills every address of the space and no other (R26). -/
theorem hostLoadIn_right_bufferInOrder {cfg : Config} {bytes : List Byte} (s : State) (h : bytes.length = rbLen cfg) :
    (hostLoadIn cfg bytes s).BufferInOrder cfg := by
  rw [rbLen, rbTop] at h
  have hsome := fun a => Memory.read_ofBytes_isSome cfg.rbBase a bytes
  rw [hostLoadIn_right s h]
  refine ⟨Memory.ofBytes_wf _ _, fun a b hread => ?_, fun _ a hlo hhi => ?_⟩
  · have hin := (hsome a).symm.trans (Option.isSome_of_eq_some hread)
    simp only [Bool.and_eq_true, decide_eq_true_eq] at hin
    omega
  · refine (hsome a).trans ?_
    simp only [Bool.and_eq_true, decide_eq_true_eq]
    omega

theorem hostLoad_bufferInOrder (bytes : List Byte) (s : State) : (hostLoad bytes s).BufferInOrder config := by
  by_cases h : bytes.length = rbLen config
  · exact hostLoadIn_right_bufferInOrder s h
  · rw [hostLoad, hostLoadIn_wrong s h]
    exact bufferInOrder_of_empty rfl (by simp)

/-- No command writes `RB` or `RB_VALID` (R25). -/
theorem effectOf_rbValid (cfg : Config) (i : Instr) (s : State) :
    (effectOf cfg i s).flag .rbValid = s.flag .rbValid :=
  effectOf_flag cfg s (by cases i <;> simp [Claims.writtenFlags])

theorem stepInvariant_bufferInOrder : StepInvariant fun u => u.BufferInOrder config where
  host _ _ _ hs := hs.congr rfl rfl
  load bytes _ := hostLoad_bufferInOrder bytes _
  latch _ hs _ := hs.congr rfl (by simp)
  effect i hs _ := hs.congr (effectOf_rb config i _) (effectOf_rbValid config i _)

/-- Settles O47: the invariant's step; a reset empties the buffer and clears `RB_VALID`. -/
theorem stepKeepsTheBufferInOrder : Obligations.StepKeepsTheBufferInOrder := fun _ _ hs h =>
  stepInvariant_bufferInOrder.step hs h fun _ _ => bufferInOrder_of_empty rfl (hostReset_flag _ _)

end Sys2Proof.Machine
end

section
/-! PROOFS. The read port (spec/10_state.md R21, R22): its table of indices, the 128-bit word of a register as its value,
and the bits of `STATUS`. -/

namespace Sys2Proof.Machine

open Sys2Proof.Claims

/-- Zero extension keeps the unsigned value (R22). -/
theorem zeroExtend_eq_ofInt {n : Nat} (v : BitVec n) : v.zeroExtend 128 = BitVec.ofInt 128 (v.toNat : Int) := by
  apply BitVec.eq_of_toNat_eq
  simp

/-- Sign extension keeps the signed value (R22). -/
theorem signExtend_eq_ofInt {n : Nat} (v : BitVec n) : v.signExtend 128 = BitVec.ofInt 128 v.toInt := rfl

/-- A register's port word is its value under its declared type (R16 to R22). -/
theorem regWord_eq_ofInt_registerValue (s : State) (r : Reg) : s.regWord r = BitVec.ofInt 128 (registerValue s r) := by
  cases r with
  | press => exact (BitVec.ofInt_toInt).symm
  | res | temp | tFine | digT2 | digT3 | digP2 | digP3 | digP4 | digP5 | digP6 | digP7 | digP8 | digP9 | digH2 =>
    exact signExtend_eq_ofInt _
  | _ => exact zeroExtend_eq_ofInt _

/-- The table of R22 gives each register its own index. -/
theorem index_of_mem_readPortTable {idx : RegIndex} {r : Reg} (h : (idx, r) ∈ readPortTable) : idx = r.index := by
  have hall : ∀ p ∈ readPortTable, p.1 = p.2.index := by decide
  exact hall _ h

theorem index_mem_readPortTable (r : Reg) : r.index ∈ readPortTable.map Prod.fst := by cases r <;> decide

/-- An index outside the table is no register's. -/
theorem ofIndex_eq_none {idx : RegIndex} (h : idx ∉ readPortTable.map Prod.fst) : Reg.ofIndex idx = none := by
  rw [Option.eq_none_iff_forall_not_mem]
  intro r hr
  exact h (Reg.index_of_ofIndex hr ▸ index_mem_readPortTable r)

/-- Settles O43: the three answers of the port, each on the state with the action taken. -/
theorem readPortPresentsRegisters : Obligations.ReadPortPresentsRegisters := by
  intro s rest
  refine ⟨fun idx r hmem hact hvalid => ?_, fun idx r hmem hact hvalid => ?_, fun idx hmem hact => ?_⟩
  · obtain rfl := index_of_mem_readPortTable hmem
    have htaken : ({ s with actions := rest } : State).regValid r = true := hvalid
    rw [step_action hact, runAction, hostRead_valid htaken, regWord_eq_ofInt_registerValue]
    rfl
  · obtain rfl := index_of_mem_readPortTable hmem
    have htaken : ({ s with actions := rest } : State).regValid r = false := hvalid
    rw [step_action hact, runAction, hostRead_invalid htaken]
    exact ⟨_, rfl⟩
  · rw [step_action hact, runAction, hostRead_unassigned _ (ofIndex_eq_none hmem)]
    rfl

/-- A bit of `STATUS` on the port is that bit of the register (R22). -/
theorem getLsbD_regWord_status (s : State) {i : Nat} (h : i < 128) :
    (s.regWord .status).getLsbD i = s.status.getLsbD i := by
  simp [State.regWord, h]

theorem regWord_status_flag (s : State) (f : Flag) : (s.regWord .status).getLsbD f.bit = s.flag f :=
  getLsbD_regWord_status s (f.bit_lt.trans (by decide))

theorem regWord_status_err (s : State) : (s.regWord .status).extractLsb' 12 4 = s.err := by
  apply BitVec.eq_of_getLsbD_eq
  intro i hi
  have h : 12 + i < 128 := by omega
  rw [BitVec.getLsbD_extractLsb', getLsbD_regWord_status s h, State.err, getErr, BitVec.getLsbD_extractLsb']

/-- Settles O44: each flag at its place of R21's table, and `ERR` above them. -/
theorem statusLayout : Obligations.StatusLayout := fun s =>
  ⟨regWord_status_flag s .rbValid, regWord_status_flag s .calValid, regWord_status_flag s .rawValid,
    regWord_status_flag s .tfValid, regWord_status_flag s .tValid, regWord_status_flag s .pValid,
    regWord_status_flag s .hValid, regWord_status_flag s .resValid, regWord_status_flag s .pUndef,
    regWord_status_flag s .hClampLo, regWord_status_flag s .hClampHi, regWord_status_err s⟩

end Sys2Proof.Machine
end

section
/-! PROOFS. A load replaces the buffer, sets `RB_VALID` by the length of the load, and changes nothing else
(spec/20_memory.md R26). -/

namespace Sys2Proof.Machine

/-- From `RB_BASE` on, a load of `RB_LEN` bytes leaves its bytes in their order (R24). -/
theorem hostLoadIn_right_read {cfg : Config} {bytes : List Byte} {a : Nat} (s : State)
    (hlen : bytes.length = rbLen cfg) (ha : cfg.rbBase ≤ a) :
    (hostLoadIn cfg bytes s).rb.read a = bytes[a - cfg.rbBase]? := by
  obtain ⟨i, rfl⟩ := Nat.exists_eq_add_of_le ha
  rw [hostLoadIn_right s hlen, State.setFlag_rb, Memory.read_ofBytes, Nat.add_sub_cancel_left]

/-- The frame of a load at either length, with the value it gives `RB_VALID`. -/
theorem hostLoadIn_frame (cfg : Config) (bytes : List Byte) (s : State) :
    hostLoadIn cfg bytes s =
      { s with rb := (hostLoadIn cfg bytes s).rb,
               status := putFlag s.status .rbValid (decide (bytes.length = rbLen cfg)) } := by
  by_cases h : bytes.length = rbLen cfg
  · rw [hostLoadIn_right s h, decide_eq_true h]
    rfl
  · rw [hostLoadIn_wrong s h, decide_eq_false h]
    rfl

/-- Settles O42: the step is the load on the state with the action taken. -/
theorem loadReplacesTheBuffer : Obligations.LoadReplacesTheBuffer := by
  intro s bytes rest hact
  refine ⟨hostLoad bytes { s with actions := rest }, ?_, fun hlen a ha _ => ?_, ?_⟩
  · rw [step_action hact, runAction]
  · exact hostLoadIn_right_read _ hlen ha
  · exact hostLoadIn_frame config bytes { s with actions := rest }

end Sys2Proof.Machine
end

section
/-! PROOFS. The encoding (spec/30_encoding.md R38 to R44): the decoder and the encoder are inverse to each other on legal
words, the rows of the opcode map are told apart by their operation codes, and which words are illegal. -/

namespace Sys2Proof

open Machine

/-! ### Decoding and encoding (R41, R43) -/

theorem decode_rdu16_word (arg : Byte) : decode (assembleWord 0x01 arg) = .ok (.rdu16 arg.toNat) := by
  rw [decode_assembleWord, if_pos rfl]

theorem decode_rds16_word (arg : Byte) : decode (assembleWord 0x02 arg) = .ok (.rds16 arg.toNat) := by
  rw [decode_assembleWord, if_neg (by decide), if_pos rfl]

/-- An operand that fits `ARG` is its own low byte (R41). -/
theorem toNat_operand {addr : Nat} (h : addr < 256) : (BitVec.ofNat 8 addr).toNat = addr :=
  (BitVec.toNat_ofNat addr 8).trans (Nat.mod_eq_of_lt h)

/-- Settles O1: the two rows with an operand give it back; the words of the other six rows are closed. -/
theorem decodeOfEncodeIsTheCommand : Obligations.DecodeOfEncodeIsTheCommand := by
  intro i hi
  cases i with
  | rdu16 addr => rw [encode, decode_rdu16_word, toNat_operand (of_decide_eq_true hi)]
  | rds16 addr => rw [encode, decode_rds16_word, toNat_operand (of_decide_eq_true hi)]
  | ldcal | unpack | compt | compp | comph | sample => rfl

/-- What decodes is encoded with the same operation code and operand, row by row (R43). -/
theorem encode_of_decode_assembleWord {opc arg : Byte} {i : Instr} (h : decode (assembleWord opc arg) = .ok i) :
    encode i = assembleWord opc arg ∧ i.wellFormed = true := by
  have hoperand : BitVec.ofNat 8 arg.toNat = arg := BitVec.eq_of_toNat_eq (toNat_operand arg.isLt)
  rw [decode_assembleWord] at h
  split_ifs at h with hopc hopc <;> cases h
  · exact ⟨by rw [encode, hoperand, hopc], decide_eq_true arg.isLt⟩
  · exact ⟨by rw [encode, hoperand, hopc], decide_eq_true arg.isLt⟩
  all_goals
    obtain ⟨rfl, rfl⟩ := ‹_ ∧ _›
    exact ⟨rfl, rfl⟩

/-- Settles O2: every word is put together from its two fields. -/
theorem encodeOfDecodeIsTheWord : Obligations.EncodeOfDecodeIsTheWord := by
  intro w i h
  rw [← assembleWord_fields w] at h ⊢
  exact encode_of_decode_assembleWord h

/-! ### The rows of the opcode map (R40) -/

theorem toNat_argOf (w : CmdWord) : (argOf w).toNat = w.toNat % 256 := by
  rw [argOf, BitVec.extractLsb'_toNat, Nat.shiftRight_zero]

theorem opcOf_and (w v : CmdWord) : opcOf (w &&& v) = opcOf w &&& opcOf v := BitVec.extractLsb'_and

/-- Every mask of the map covers the whole operation code, so a word has the operation code of a row it selects. -/
theorem opcOf_of_selected {w : CmdWord} {r : OpcodeRow} (hr : r ∈ opcodeMap) (h : w &&& r.mask = r.pattern) :
    opcOf w = opcOf r.pattern := by
  have hmasks : ∀ r ∈ opcodeMap, opcOf r.mask = BitVec.allOnes 8 := by decide
  rw [← h, opcOf_and, hmasks r hr, BitVec.and_allOnes]

theorem opcodes_nodup : (opcodeMap.map fun r => opcOf r.pattern).Nodup := by decide

/-- A word in a row with an operand is the row's operation code and its own low byte. -/
theorem eq_assembleWord_of_operand_row {opc : Byte} {w : CmdWord} (h : w &&& 0xFF00 = assembleWord opc 0) :
    w = assembleWord opc (argOf w) := by
  have hopc : opcOf w = opc := by
    rw [← assembleWord_fields w, and_opcode_mask] at h
    exact (assembleWord_injective h).1
  rw [← hopc, assembleWord_fields]

theorem decode_of_rdu16_row {w : CmdWord} (h : w &&& 0xFF00 = 0x0100) : decode w = .ok (.rdu16 (w.toNat % 256)) := by
  rw [← toNat_argOf, ← decode_rdu16_word, ← eq_assembleWord_of_operand_row (opc := 0x01) h]

theorem decode_of_rds16_row {w : CmdWord} (h : w &&& 0xFF00 = 0x0200) : decode w = .ok (.rds16 (w.toNat % 256)) := by
  rw [← toNat_argOf, ← decode_rds16_word, ← eq_assembleWord_of_operand_row (opc := 0x02) h]

/-- Settles O3: a row without operand selects the encoding of its command; rows with one operation code are one row. -/
theorem opcodeMapRowsAreDisjoint : Obligations.OpcodeMapRowsAreDisjoint := by
  have hplain {w : CmdWord} (i : Instr) (hi : i.wellFormed = true) (h : w = encode i) : decode w = .ok i :=
    h ▸ decodeOfEncodeIsTheCommand i hi
  refine ⟨rfl, fun w => ⟨decode_of_rdu16_row, decode_of_rds16_row, hplain .ldcal rfl, hplain .unpack rfl,
    hplain .compt rfl, hplain .compp rfl, hplain .comph rfl, hplain .sample rfl⟩, fun w r r' hr hr' h h' => ?_⟩
  have hopc : opcOf r.pattern = opcOf r'.pattern := (opcOf_of_selected hr h).symm.trans (opcOf_of_selected hr' h')
  exact List.inj_on_of_nodup_map opcodes_nodup hr hr' hopc

/-! ### Illegal words (R42) -/

/-- The operation codes of the rows without operand (R40). -/
def plainOpcodes : List Byte := [0x10, 0x11, 0x20, 0x21, 0x22, 0x2F]

theorem exists_decode_plain : ∀ opc ∈ plainOpcodes,
    ∃ i ∈ [Instr.ldcal, .unpack, .compt, .compp, .comph, .sample], decode (assembleWord opc 0) = .ok i := by
  decide

/-- The legal words by their two fields (R40): those that encode a command. -/
theorem decode_assembleWord_ok_iff (opc arg : Byte) : (∃ i, decode (assembleWord opc arg) = .ok i) ↔
    opc = 0x01 ∨ opc = 0x02 ∨ (opc ∈ plainOpcodes ∧ arg = 0) := by
  constructor
  · rintro ⟨i, h⟩
    have henc := (encode_of_decode_assembleWord h).1
    cases i with
    | rdu16 addr => exact .inl (assembleWord_injective henc).1.symm
    | rds16 addr => exact .inr (.inl (assembleWord_injective henc).1.symm)
    | ldcal | unpack | compt | compp | comph | sample =>
      obtain ⟨rfl, rfl⟩ := assembleWord_injective henc
      exact .inr (.inr ⟨by decide, rfl⟩)
  · rintro (rfl | rfl | ⟨hopc, rfl⟩)
    · exact ⟨_, decode_rdu16_word arg⟩
    · exact ⟨_, decode_rds16_word arg⟩
    · obtain ⟨i, -, h⟩ := exists_decode_plain opc hopc
      exact ⟨i, h⟩

theorem decode_error_iff (w : CmdWord) : (∃ e, decode w = .error e) ↔ ¬ ∃ i, decode w = .ok i := by
  cases decode w <;> simp

/-- The illegal words as R42 lists them. -/
theorem decode_append_error_iff (opc arg : Byte) : (∃ e, decode (opc ++ arg) = .error e) ↔
    (opc ∉ 0x01 :: 0x02 :: plainOpcodes ∨ (opc ∈ plainOpcodes ∧ arg ≠ 0x00)) := by
  have hapart : ∀ opc ∈ plainOpcodes, opc ≠ 0x01 ∧ opc ≠ 0x02 := by decide
  rw [← assembleWord, decode_error_iff, decode_assembleWord_ok_iff, List.mem_cons, List.mem_cons]
  have := hapart opc
  tauto

/-- Settles O4: which words are illegal, and the fault that the step takes on the state with the action taken. -/
theorem illegalWordsTakeFaultOne : Obligations.IllegalWordsTakeFaultOne := by
  refine ⟨decode_append_error_iff, (decode_append_error_iff 0x00 0x00).2 (by decide),
    (decode_append_error_iff 0xFF 0xFF).2 (by decide), fun s w rest e hact hdec => ?_⟩
  rw [step_action hact, runAction, runWord, hdec]
  exact congrArg Host.Outcome.next (raiseFault_eq _ _)

/-! ### The fixed words of the tables -/

/-- Settles O5: the legal words encode their commands; the decoder gives the reason for each illegal one. -/
theorem wordsOfTheVectorTableDecode : Obligations.WordsOfTheVectorTableDecode := by
  have hlegal (i : Instr) (hi : i.wellFormed = true) : decode (encode i) = .ok i := decodeOfEncodeIsTheCommand i hi
  refine ⟨hlegal (.rdu16 0x88) rfl, hlegal (.rds16 0xFE) rfl, hlegal (.rdu16 0x00) rfl, hlegal .ldcal rfl,
    hlegal .unpack rfl, hlegal .compt rfl, hlegal .compp rfl, hlegal .comph rfl, hlegal .sample rfl, ?_⟩
  decide

/-- Settles O6: the assembler evaluated on the six lines. -/
theorem exampleListingAssembles : Obligations.ExampleListingAssembles := by
  unfold Obligations.ExampleListingAssembles
  decide

/-- Settles O14: the response word evaluated on OK and the seven codes. -/
theorem responseWordsCarryTheCodes : Obligations.ResponseWordsCarryTheCodes := by
  unfold Obligations.ResponseWordsCarryTheCodes
  decide

end Sys2Proof
end

section
/-! PROOFS. How a command ends, in the terms of the claims: the model's checks are R71's list, a failing one
takes R76's fault, and with none the response is OK (spec/30_encoding.md R45; spec/60_exceptions.md R71, R76). -/

namespace Sys2Proof.Machine

open Sys2Proof.Claims

/-- The model's checks fail as R71's list for the command says. -/
theorem firstFailing_checksOf (i : Instr) (s : State) : firstFailing (checksOf config i s) = firstFault i s := by
  have hfalse {α : Type} (b : Bool) (x y : α) : (if b = false then x else y) = if b = true then y else x := by
    cases b <;> rfl
  have haddr (a : Nat) : addrInBuffer config a = true ↔ ¬ (a < config.rbBase ∨ 0xFF < a + 1) := by
    rw [addrInBuffer_iff]
    omega
  cases i <;>
    simp only [checksOf, readChecks, tFineChecks, firstFailing_cons, firstFailing_nil, firstFault, Bool.not_eq_true',
      hfalse, haddr, ite_not]

theorem exec_of_firstFault {i : Instr} {s : State} {c : FaultCode} (h : firstFault i s = some c) :
    exec i s = .next (faulted c s) := by
  rw [exec_fault ((firstFailing_checksOf i s).trans h), raiseFault_eq, faulted]

theorem exec_of_no_firstFault {i : Instr} {s : State} (h : firstFault i s = none) :
    exec i s = .next (responded (effectOf config i s)) :=
  exec_ok ((firstFailing_checksOf i s).trans h)

end Sys2Proof.Machine
end

section
/-! PROOFS. The Register Buffer Decoder (spec/40_decoder.md R47 to R52): what a command reads from a buffer whose bytes are
known, as sums of weighted bytes, and the register that holds it exactly. -/

namespace Sys2Proof.Machine

open Sys2Proof.Claims

/-! ### Fields of a loaded buffer (R28, R29, R50, R51)

The premise `ha` is R27's: the field's bytes lie in `RB_BASE .. 0xFF`. -/

section Fields

variable {byte : Nat → Byte} {s : State} {a : Nat} (h : BufferHolds byte s)
include h

/-- A byte of a field, by its offset in the field. -/
theorem rbByte_of_bufferHolds {n : Nat} (ha : config.rbBase ≤ a ∧ a + n ≤ 0x100) (k : Nat) (hk : k < n) :
    s.rbByte (a + k) = byte (a + k) :=
  State.rbByte_of_read (h (a + k) (by omega) (by omega))

theorem firstByte_of_bufferHolds {n : Nat} (ha : config.rbBase ≤ a ∧ a + n ≤ 0x100) (hn : 0 < n) :
    s.rbByte a = byte a :=
  rbByte_of_bufferHolds h ha 0 hn

theorem memRead2_of_bufferHolds (ha : config.rbBase ≤ a ∧ a + 2 ≤ 0x100) : (s.memRead2 a : Int) = word16 byte a := by
  have hb := rbByte_of_bufferHolds h ha
  rw [State.memRead2_eq, firstByte_of_bufferHolds h ha (by decide), hb 1 (by decide)]
  rfl

theorem memReadS16_of_bufferHolds (ha : config.rbBase ≤ a ∧ a + 2 ≤ 0x100) : s.memReadS16 a = signed16 byte a := by
  rw [State.memReadS16_eq, signed16, ← memRead2_of_bufferHolds h ha]
  norm_cast

/-! Registers loaded from these fields -/

theorem toNat_word_field (ha : config.rbBase ≤ a ∧ a + 2 ≤ 0x100) :
    ((BitVec.ofNat 16 (s.memRead2 a)).toNat : Int) = word16 byte a := by
  rw [State.toNat_memRead2, memRead2_of_bufferHolds h ha]

theorem toInt_signed_field (ha : config.rbBase ≤ a ∧ a + 2 ≤ 0x100) :
    (BitVec.ofInt 16 (s.memReadS16 a)).toInt = signed16 byte a := by
  rw [State.toInt_memReadS16, memReadS16_of_bufferHolds h ha]

theorem toNat_byte_field (ha : config.rbBase ≤ a ∧ a + 1 ≤ 0x100) :
    (BitVec.ofNat 8 (s.memRead1 a)).toNat = (byte a).toNat := by
  rw [State.toNat_memRead1, firstByte_of_bufferHolds h ha (by decide)]

theorem toNat_h4_field (ha : config.rbBase ≤ a ∧ a + 3 ≤ 0x100) :
    (BitVec.ofNat 12 (s.packedH4 a)).toNat = 16 * (byte a).toNat + (byte (a + 1)).toNat % 16 := by
  have hb := rbByte_of_bufferHolds h ha
  rw [State.toNat_packedH4, State.packedH4_eq, firstByte_of_bufferHolds h ha (by decide), hb 1 (by decide)]

theorem toNat_h5_field (ha : config.rbBase ≤ a ∧ a + 3 ≤ 0x100) :
    (BitVec.ofNat 12 (s.packedH5 a)).toNat = 16 * (byte (a + 2)).toNat + (byte (a + 1)).toNat / 16 := by
  have hb := rbByte_of_bufferHolds h ha
  rw [State.toNat_packedH5, State.packedH5_eq, hb 1 (by decide), hb 2 (by decide)]

theorem toNat_raw20_field (ha : config.rbBase ≤ a ∧ a + 3 ≤ 0x100) :
    ((BitVec.ofNat 20 (s.raw20 a)).toNat : Int) = packed20 byte a := by
  have hb := rbByte_of_bufferHolds h ha
  rw [State.toNat_raw20, State.raw20_eq, firstByte_of_bufferHolds h ha (by decide), hb 1 (by decide), hb 2 (by decide)]
  rfl

theorem toNat_raw16_field (ha : config.rbBase ≤ a ∧ a + 2 ≤ 0x100) :
    (BitVec.ofNat 16 (s.raw16 a)).toNat = 256 * (byte a).toNat + (byte (a + 1)).toNat := by
  have hb := rbByte_of_bufferHolds h ha
  rw [State.toNat_raw16, State.raw16_eq, firstByte_of_bufferHolds h ha (by decide), hb 1 (by decide)]

end Fields

/-! ### RDU16 and RDS16 (R47, R48, R52) -/

section Reads

variable {s : State} {a : Nat}

theorem firstFault_rdu16_of_invalid (h : s.flag .rbValid = false) : firstFault (.rdu16 a) s = some .bufferInvalid :=
  if_pos h

theorem firstFault_rdu16_of_outside (h : s.flag .rbValid = true) (ha : a < config.rbBase ∨ 0xFF < a + 1) :
    firstFault (.rdu16 a) s = some .addrRange := by
  rw [firstFault, if_neg (by simp [h]), if_pos ha]

theorem firstFault_rdu16_of_inside (h : s.flag .rbValid = true) (hlo : config.rbBase ≤ a) (hhi : a + 1 ≤ 0xFF) :
    firstFault (.rdu16 a) s = none := by
  rw [firstFault, if_neg (by simp [h]), if_neg (by omega)]

/-- R48's preconditions are R47's. -/
theorem firstFault_rds16_eq (a : Nat) (s : State) : firstFault (.rds16 a) s = firstFault (.rdu16 a) s := rfl

/-- `RES` holds every value of a 16-bit read, of either reading, exactly. -/
theorem toInt_setResult_res {v : Int} (hlo : -32768 ≤ v) (hhi : v < 65536) (s : State) :
    (setResult v s).res.toInt = v :=
  BitVec.toInt_ofInt_eq_self (by decide) (by omega) (by omega)

theorem toInt_rdu16_res (s : State) (a : Nat) : (effectOf config (.rdu16 a) s).res.toInt = s.memRead2 a := by
  have hlt := s.memRead2_lt a
  exact toInt_setResult_res (by omega) (by omega) s

theorem toInt_rds16_res (s : State) (a : Nat) : (effectOf config (.rds16 a) s).res.toInt = s.memReadS16 a := by
  have hbetween := s.memReadS16_between a
  exact toInt_setResult_res (by omega) (by omega) s

end Reads

/-- Settles O16: the two failing checks, and the effect on known bytes. -/
theorem rdu16ReadsAnUnsignedWord : Obligations.Rdu16ReadsAnUnsignedWord := by
  refine ⟨decode_rdu16_word, fun s a => ⟨fun hrb => ?_, fun hrb ha => ?_, fun byte hrb hbytes hlo hhi => ?_⟩⟩
  · exact exec_of_firstFault (firstFault_rdu16_of_invalid hrb)
  · exact exec_of_firstFault (firstFault_rdu16_of_outside hrb ha)
  · exact ⟨_, exec_of_no_firstFault (firstFault_rdu16_of_inside hrb hlo hhi),
      (toInt_rdu16_res s a).trans (memRead2_of_bufferHolds hbytes ⟨hlo, Nat.succ_le_succ hhi⟩), rfl⟩

/-- Settles O17: the checks of RDU16, and the effect on known bytes. -/
theorem rds16ReadsASignedWord : Obligations.Rds16ReadsASignedWord := by
  refine ⟨decode_rds16_word, fun s a => ⟨fun hrb => ?_, fun hrb ha => ?_, fun byte hrb hbytes hlo hhi => ?_⟩⟩
  · exact exec_of_firstFault ((firstFault_rds16_eq a s).trans (firstFault_rdu16_of_invalid hrb))
  · exact exec_of_firstFault ((firstFault_rds16_eq a s).trans (firstFault_rdu16_of_outside hrb ha))
  · exact ⟨_, exec_of_no_firstFault ((firstFault_rds16_eq a s).trans (firstFault_rdu16_of_inside hrb hlo hhi)),
      (toInt_rds16_res s a).trans (memReadS16_of_bufferHolds hbytes ⟨hlo, Nat.succ_le_succ hhi⟩), rfl⟩

/-- Settles O18: both reads complete, and the signed one is the two's-complement reading of the unsigned one. -/
theorem signedAndUnsignedReadsAgree : Obligations.SignedAndUnsignedReadsAgree := by
  intro s a hrb hlo hhi
  have hok := firstFault_rdu16_of_inside hrb hlo hhi
  have hu : (responded (effectOf config (.rdu16 a) s)).res.toInt = s.memRead2 a := toInt_rdu16_res s a
  have hs : (responded (effectOf config (.rds16 a) s)).res.toInt = s.memReadS16 a := toInt_rds16_res s a
  refine ⟨_, _, exec_of_no_firstFault hok, exec_of_no_firstFault ((firstFault_rds16_eq a s).trans hok), ?_⟩
  rw [hu, hs, State.memReadS16_eq]
  split <;> omega

/-! ### LDCAL (R49, R50) -/

/-- Settles O19: the two failing checks, and each constant by the lemma of its type, at its address of the map. -/
theorem ldcalDecodesTheCalibrationSet : Obligations.LdcalDecodesTheCalibrationSet := by
  refine ⟨decodeOfEncodeIsTheCommand .ldcal rfl,
    fun s => ⟨fun hrb => ?_, fun hrb hcal => ?_, fun byte hrb hcal h => ?_⟩⟩
  · exact exec_of_firstFault (if_pos hrb)
  · exact exec_of_firstFault (by simp [firstFault, hrb, hcal])
  · have hword {a : Nat} := toNat_word_field (a := a) h
    have hsigned {a : Nat} := toInt_signed_field (a := a) h
    have hbyte {a : Nat} := toNat_byte_field (a := a) h
    refine ⟨_, exec_of_no_firstFault (by simp [firstFault, hrb, hcal]), rfl, hword ?_, hsigned ?_, hsigned ?_,
      hword ?_, hsigned ?_, hsigned ?_, hsigned ?_, hsigned ?_, hsigned ?_, hsigned ?_, hsigned ?_, hsigned ?_,
      hbyte ?_, hsigned ?_, hbyte ?_, toNat_h4_field h ?_, toNat_h5_field h ?_, hbyte ?_⟩ <;> decide

/-! ### UNPACK (R51) -/

/-- Settles O20: the failing check, the three raw values at their addresses of the map, and the flags of the effect. -/
theorem unpackDecodesTheRawSample : Obligations.UnpackDecodesTheRawSample := by
  refine ⟨decodeOfEncodeIsTheCommand .unpack rfl, fun s => ⟨fun hrb => ?_, fun byte hrb h => ?_⟩⟩
  · exact exec_of_firstFault (if_pos hrb)
  · have hflag (f : Flag) : (responded (effectOf config .unpack s)).flag f =
        if f = .rawValid then true else if f.ofSample then false else s.flag f := unpackEffect_flag config s f
    exact ⟨_, exec_of_no_firstFault (by simp [firstFault, hrb]), rfl,
      toNat_raw20_field h (by decide), toNat_raw20_field h (by decide), toNat_raw16_field h (by decide),
      hflag _, hflag _, hflag _, hflag _, hflag _, hflag _, hflag _, hflag _, hflag _, hflag _, hflag _,
      unpackEffect_err config s, unpackEffect_reserved config s⟩

end Sys2Proof.Machine
end

section
/-! PROOFS. The pure functions written out on all integers: shifts as products and floor divisions by literal powers of two
(spec/00_scope.md R10; spec/41_compensation.md R53, R57 to R59, R62). -/

namespace Sys2Proof.Machine

theorem shl_eq_mul (a : Int) (n : Nat) : shl a n = a * 2 ^ n := mul_comm _ _

theorem asr_eq_ediv (a : Int) (n : Nat) : asr a n = a / 2 ^ n := rfl

/-- A floor shift has a value exactly on one block of `2^n` integers (R10). -/
theorem asr_eq_iff (a k : Int) (n : Nat) : asr a n = k ↔ k * 2 ^ n ≤ a ∧ a < (k + 1) * 2 ^ n := by
  rw [← le_asr_iff, ← asr_lt_iff]
  omega

/-- Settles O21: the two forms differ in their first term alone. -/
theorem temperatureFormula : Obligations.TemperatureFormula := by
  intro adcT t1 t2 t3
  have hd1 : tempD1 adcT t1 = adcT / 8 - t1 * 2 := by norm_num [tempD1, asr_eq_ediv, shl_eq_mul]
  have hvar2 : tempVar2 (tempE adcT t1) t3 = (adcT / 16 - t1) * (adcT / 16 - t1) / 4096 * t3 / 16384 := by
    norm_num [tempVar2, tempE, square, asr_eq_ediv]
  constructor
  · norm_num [compT, tempTFine, tempVar1, tempCentiDegrees, hd1, hvar2, asr_eq_ediv]
  · norm_num [compT, tempTFine, tempVar1, tempCentiDegrees, hd1, hvar2, asr_eq_ediv]

/-- Settles O25: the two stages in the named intermediates, and the one division by R10's formula. -/
theorem defaultPressureBody : Obligations.DefaultPressureBody := by
  intro tFine p1 p2 p3 p4 p5 p6 adcP var1 var2 p7 p8 p9
  constructor
  · norm_num [defaultPressBody_divisor, pressVar1, pressProduct, pressC, pressVar2, pressA, square, asr_eq_ediv, shl_eq_mul]
  · intro _
    norm_num [defaultPressBody_refine, tdiv_eq_sign_mul, pressFinish, pressNum, pressP0, pressW1, pressW2, square,
      asr_eq_ediv, shl_eq_mul]

/-- The divisor of the default body is the product of R57, shifted. -/
theorem defaultPressBody_divisor_fst (tFine p1 p2 p3 p4 p5 p6 : Int) :
    (defaultPressBody.divisor tFine p1 p2 p3 p4 p5 p6).1 =
      asr ((140737488355328 + pressC (tFine - 128000) p2 p3) * p1) 33 := by
  norm_num [defaultPressBody_divisor, pressVar1, pressProduct, pressA, shl_eq_mul]

/-- Settles O26: a floor shift is 0 on one block of products, and -1 on the block below. -/
theorem defaultDivisorVanishesExactly : Obligations.DefaultDivisorVanishesExactly := by
  intro tFine p1 p2 p3 p4 p5 p6
  have hc : pressC (1176576 - 128000) (-32768) 0 = -140737488355328 := by decide
  refine ⟨?_, ?_, ?_⟩
  · rw [defaultPressBody_divisor_fst, asr_eq_iff, asr_eq_iff]
    norm_num
  · rw [defaultPressBody_divisor_fst, mul_zero]
    decide
  · rw [defaultPressBody_divisor_fst, hc, add_neg_cancel, zero_mul]
    decide

/-- Settles O29: the two stages in the named intermediates. -/
theorem defaultHumidityBody : Obligations.DefaultHumidityBody := by
  intro adcH tFine h1 h2 h3 h4 h5 h6 x
  constructor
  · norm_num [defaultHumBody_firstStage, humX, humA, humB, humM4, humM1, humM2, humV, asr_eq_ediv, shl_eq_mul]
  · norm_num [defaultHumBody_correction, humK, square, asr_eq_ediv]

end Sys2Proof.Machine
end

section
/-! PROOFS. The interval table (spec/41_compensation.md R66): each named intermediate from the intervals of what it is
computed from, with the default bodies (log 3, log 4). -/

namespace Sys2Proof.Machine

open Sys2Proof.Claims

theorem below_of_within {A v bound : Int} (h : Within (-A) v A) (hA : A < bound) : Below v bound := by
  obtain ⟨h1, h2⟩ := h
  constructor <;> omega

/-! ### Temperature -/

section Temperature

variable {adcT t1 : Int} (hadc : Within 0 adcT 1048575) (ht1 : Within 0 t1 65535)
include hadc ht1

theorem tempE_within : Within (-65535) (tempE adcT t1) 65535 := by
  obtain ⟨h1, h2⟩ := within_asr hadc 4 (lo' := 0) (hi' := 65535) (by decide) (by decide)
  obtain ⟨h3, h4⟩ := ht1
  constructor <;> simp only [tempE] <;> omega

theorem square_tempE_within : Within 0 (square (tempE adcT t1)) 4294836225 :=
  within_square (tempE_within hadc ht1) (by decide)

theorem tempVar2_product_within {t3 : Int} (ht3 : Within (-32768) t3 32767) :
    Within (-34358689792) (asr (square (tempE adcT t1)) 12 * t3) 34357641248 := by
  have hs := within_asr (square_tempE_within hadc ht1) 12 (lo' := 0) (hi' := 1048544) (by decide) (by decide)
  exact within_mul hs ht3 (by decide)

end Temperature

/-- Settles O34: the rows of the table, each by its lemma. -/
theorem temperatureIntermediatesInRange : Obligations.TemperatureIntermediatesInRange := by
  intro form adcT t1 t2 t3 hadc ht1 ht2 ht3
  have htFine : Within (-4194224) (compT form adcT t1 t2 t3).2 4194144 := tempTFine_within hadc ht1 form ht2 ht3
  exact ⟨tempD1_within hadc ht1, tempVar1_within hadc ht1 form ht2, within_mul (tempD1_within hadc ht1) ht2 (by decide),
    square_tempE_within hadc ht1, tempVar2_product_within hadc ht1 ht3, tempVar2_within hadc ht1 ht3, htFine,
    tempCentiDegrees_within htFine⟩

/-! ### Pressure -/

section Divisor

variable {a p1 p2 p3 : Int} (ha : Within (-4322224) a 4066144) (hp2 : Within (-32768) p2 32767)
  (hp3 : Within (-32768) p3 32767)
include ha hp2 hp3

/-- Both terms of `c` are extreme at the least `a`, so the intervals of the terms give the sharp bound on `c`. -/
theorem pressC_within : Within (-2971348780548096) (pressC a p2 p3) 2971293509298279 := by
  have hquad : Within (-612159334192775168) (square a * p3) 612140652572468992 :=
    within_mul (square_pressA_within ha) hp3 (by decide)
  have hlin : Within (-141626313808) (a * p2) 141630636032 := within_mul ha hp2 (by decide)
  obtain ⟨h1, h2⟩ := within_asr hquad 8 (lo' := -2391247399190528) (hi' := 2391174424111207) (by decide) (by decide)
  obtain ⟨h3, h4⟩ := hlin
  constructor <;> simp only [pressC, shl] <;> omega

theorem pressProduct_within (hp1 : Within 0 p1 65535) :
    Within (-185504111033853050880) (pressProduct (pressC a p2 p3) p1) 203946951431229134745 := by
  have hsum : Within (-2830611292192768) (shl 1 47 + pressC a p2 p3) 3112030997653607 := by
    obtain ⟨h1, h2⟩ := pressC_within ha hp2 hp3
    constructor <;> simp only [shl] <;> omega
  exact within_mul hsum hp1 (by decide)

end Divisor

section Quotient

variable {q p8 p9 : Int} (hq : Within (-2000000000000000000000) q 2000000000000000000000)
include hq

theorem pressW1_product_within (hp9 : Within (-32768) p9 32767) :
    Within (-1953125000000000000000000000000000000000) (p9 * square (asr q 13))
      1953125000000000000000000000000000000000 := by
  have h13 := within_asr hq 13 (lo' := -244140625000000000) (hi' := 244140625000000000) (by decide) (by decide)
  have hsq := within_square h13 (hi := 59604644775390625000000000000000000) (by decide)
  exact within_mul hp9 hsq (by decide)

theorem pressW2_product_within (hp8 : Within (-32768) p8 32767) :
    Within (-65536000000000000000000000) (p8 * q) 65536000000000000000000000 :=
  within_mul hp8 hq (by decide)

end Quotient

/-- Settles O35: the rows of the table, each by its lemma; the quotient's rows need no more of the divisor than that the
division truncates. -/
theorem pressureIntermediatesInRange : Obligations.PressureIntermediatesInRange := by
  intro tFine adcP p1 p2 p3 p4 p5 p6 p7 p8 p9 htFine hadc hp1 hp
  simp only [List.mem_cons, List.not_mem_nil, or_false, forall_eq_or_imp, forall_eq] at hp
  obtain ⟨hp2, hp3, hp4, hp5, hp6, hp7, hp8, hp9⟩ := hp
  intro a c var1 var2 num q
  have ha : Within (-4322224) a 4066144 := pressA_within htFine
  have hc : Within (-2971348780548096) c 2971348780548096 :=
    ⟨(pressC_within ha hp2 hp3).1, (pressC_within ha hp2 hp3).2.trans (by decide)⟩
  have hproduct := pressProduct_within ha hp2 hp3 hp1
  have hvar2 := pressVar2_within ha hp4 hp5 hp6
  have hnum := pressNum_within hadc hvar2
  have hq : Within (-2000000000000000000000) q 2000000000000000000000 := within_tdiv var1 hnum
  exact ⟨ha, below_of_within hvar2 (by decide), below_of_within hc (by decide), hproduct,
    within_asr hproduct 33 (by decide) (by decide), below_of_within hnum (by decide), fun _ =>
    ⟨below_of_within hq (by decide), below_of_within (pressW1_product_within hq hp9) (by decide),
      below_of_within (pressW1_within hq hp9) (by decide), below_of_within (pressW2_product_within hq hp8) (by decide),
      below_of_within (pressFinish_within hq hp7 hp8 hp9) (by decide)⟩⟩

/-! ### Humidity -/

section Humidity

variable {v : Int} (hv : Within (-4271024) v 4117344)
include hv

theorem humA_within {adcH h4 h5 : Int} (hadc : Within 0 adcH 65535) (hh4 : Within 0 h4 4095) (hh5 : Within 0 h5 4095) :
    Within (-645582) (humA adcH v h4 h5) 566515 := by
  have h5v : Within (-17489843280) (h5 * v) 16860523680 := within_mul hh5 hv (by decide)
  have hsum : Within (-21154426016) (shl adcH 14 - shl h4 20 - h5 * v + 16384) 18563585104 := by
    obtain ⟨h1, h2⟩ := hadc
    obtain ⟨h3, h4⟩ := hh4
    obtain ⟨h5, h6⟩ := h5v
    constructor <;> simp only [shl] <;> omega
  exact within_asr hsum 15 (by decide) (by decide)

theorem humM1_within {h6 : Int} (hh6 : Within 0 h6 255) : Within (-1063586) (humM1 v h6) 1025315 := by
  have hp : Within (-1089111120) (v * h6) 1049922720 := within_mul hv hh6 (by decide)
  exact within_asr hp 10 (by decide) (by decide)

theorem humM2_within {h3 : Int} (hh3 : Within 0 h3 255) : Within (-499025) (humM2 v h3) 545425 := by
  have hp : Within (-1089111120) (v * h3) 1049922720 := within_mul hv hh3 (by decide)
  obtain ⟨h1, h2⟩ := within_asr hp 11 (lo' := -531793) (hi' := 512657) (by decide) (by decide)
  constructor <;> simp only [humM2] <;> omega

theorem humM1_mul_humM2_within {h3 h6 : Int} (hh3 : Within 0 h3 255) (hh6 : Within 0 h6 255) :
    Within (-580106394050) (humM1 v h6 * humM2 v h3) 559232433875 :=
  within_mul (humM1_within hv hh6) (humM2_within hv hh3) (by decide)

theorem humB_within {h2 h3 h6 : Int} (hh2 : Within (-32768) h2 32767) (hh3 : Within 0 h3 255) (hh6 : Within 0 h6 255) :
    Within (-1128791549) (humB (humM4 (humM1 v h6) (humM2 v h3)) h2) 1128825998 := by
  have hm4 : Within (-564412999) (humM4 (humM1 v h6) (humM2 v h3)) 548222575 := by
    obtain ⟨h1, h2⟩ := within_asr (humM1_mul_humM2_within hv hh3 hh6) 10 (lo' := -566510151) (hi' := 546125423)
      (by decide) (by decide)
    constructor <;> simp only [humM4] <;> omega
  have hp : Within (-18494120738233) (humM4 (humM1 v h6) (humM2 v h3) * h2) 18494685151232 :=
    within_mul hm4 hh2 (by decide)
  have hsum : Within (-18494120730041) (humM4 (humM1 v h6) (humM2 v h3) * h2 + 8192) 18494685159424 := by
    obtain ⟨h1, h2⟩ := hp
    constructor <;> omega
  exact within_asr hsum 14 (by decide) (by decide)

end Humidity

section Correction

variable {x h1 : Int} (hx : Within (-728749745440836) x 728727505786518)
include hx

theorem square_humX_within : Within 0 (square (asr x 15)) 494603246007821098681 := by
  have h15 := within_asr hx 15 (lo' := -22239677291) (hi' := 22239677291) (by decide) (by decide)
  exact within_square h15 (by decide)

theorem humK_product_within (hh1 : Within 0 h1 255) :
    Within 0 (asr (square (asr x 15)) 7 * h1) 985342404156206094915 := by
  have hs := within_asr (square_humX_within hx) 7 (lo' := 0) (hi' := 3864087859436102333) (by decide) (by decide)
  exact within_mul hs hh1 (by decide)

theorem humK_within (hh1 : Within 0 h1 255) : Within 0 (humK x h1) 61583900259762880932 :=
  within_asr (humK_product_within hx hh1) 4 (by decide) (by decide)

end Correction

/-- A humidity lies in `0 .. 0x19000` on all integers (R63), whatever the body. -/
theorem compH_between (body : HumBody) (adcH tFine h1 h2 h3 h4 h5 h6 : Int) :
    Within 0 (compH body adcH tFine h1 h2 h3 h4 h5 h6).1 102400 := by
  have hclamp : Within 0 (humClamp (humUnclamped body adcH tFine h1 h2 h3 h4 h5 h6)).1 419430400 := by
    obtain ⟨-, h⟩ | ⟨-, h⟩ | ⟨h0, hmax, h⟩ :=
      humClamp_cases (humUnclamped body adcH tFine h1 h2 h3 h4 h5 h6) <;> rw [h]
    · exact ⟨by decide, by decide⟩
    · exact ⟨by decide, by decide⟩
    · exact ⟨h0, hmax⟩
  exact within_asr hclamp 12 (by decide) (by decide)

/-- Settles O36: the rows of the table, each by its lemma; the last is the clamp's, and holds for every body. -/
theorem humidityIntermediatesInRange : Obligations.HumidityIntermediatesInRange := by
  intro tFine adcH h1 h2 h3 h4 h5 h6 htFine hadc hh1 hh2 hh3 hh4 hh5 hh6 v m1 m2 x
  have hv : Within (-4271024) v 4117344 := by
    obtain ⟨hlo, hhi⟩ := htFine
    constructor <;> simp only [v, humV] <;> omega
  have hA := humA_within hv hadc hh4 hh5
  have hB := humB_within hv hh2 hh3 hh6
  have hx : Within (-728749745440836) x 728727505786518 := within_mul hA hB (by decide)
  have hy : Within (-61584629009508321768) (x - humK x h1) 728727505786518 := by
    obtain ⟨hklo, hkhi⟩ := humK_within hx hh1
    obtain ⟨hxlo, hxhi⟩ := hx
    constructor <;> omega
  exact ⟨hv, hA, humM1_mul_humM2_within hv hh3 hh6, hB, hx, square_humX_within hx, humK_product_within hx hh1, hy,
    compH_between defaultHumBody adcH tFine h1 h2 h3 h4 h5 h6⟩

end Sys2Proof.Machine
end

section
/-! PROOFS. The Compensation Engine's commands (spec/41_compensation.md R54 to R65): the values each effect writes, for every
configuration, its frame, and how the command ends. -/

namespace Sys2Proof.Machine

open Sys2Proof.Claims

/-! ### Values of the effects -/

section Values

variable (cfg : Config) (s : State)

/-- COMPT's registers hold `CompT` exactly (R54). -/
theorem comptEffect_values :
    ((comptEffect cfg s).temp.toInt, (comptEffect cfg s).tFine.toInt) = compTOf cfg s.raw s.cal :=
  Prod.ext (toInt_temp cfg s.raw s.cal) (toInt_tFine cfg s.raw s.cal)

/-- COMPH's register and flags hold `CompH` exactly (R61). -/
theorem comphEffect_values :
    (((comphEffect cfg s).hum.toNat : Int), (comphEffect cfg s).flag .hClampLo, (comphEffect cfg s).flag .hClampHi) =
      compHOf cfg s.raw s.tFine s.cal :=
  Prod.ext (toNat_hum cfg s.raw s.tFine s.cal) (Prod.ext (by simp) (by simp))

/-- COMPP writes `PRESS`, `P_UNDEF` and `P_VALID` (R56). -/
theorem comppEffect_frame :
    comppEffect cfg s = ({ s with press := (comppEffect cfg s).press }.setFlag .pUndef
      ((comppEffect cfg s).flag .pUndef)).setFlag .pValid true := by
  rw [comppEffect_flag]
  rfl

/-- COMPH writes `HUM`, the clamp flags and `H_VALID` (R61). -/
theorem comphEffect_frame :
    comphEffect cfg s = (({ s with hum := (comphEffect cfg s).hum }.setFlag .hClampLo
      ((comphEffect cfg s).flag .hClampLo)).setFlag .hClampHi ((comphEffect cfg s).flag .hClampHi)).setFlag .hValid
        true := by
  rw [comphEffect_flag, comphEffect_flag]
  rfl

end Values

/-! ### The divisor (R55, R58) -/

/-- The divisor stage on the registers: the candidate divisor, and what else the stage hands on (R55). -/
def divisorOf (cfg : Config) (tFine : BitVec 32) (cal : CalibrationSet) : Int × Int :=
  cfg.pressBody.divisor (signedReg tFine) (unsignedReg cal.digP1) (signedReg cal.digP2) (signedReg cal.digP3)
    (signedReg cal.digP4) (signedReg cal.digP5) (signedReg cal.digP6)

section Divisor

variable {cfg : Config} {tFine : BitVec 32} {cal : CalibrationSet} (raw : RawSample)

theorem compPOf_of_divisor_zero (h : (divisorOf cfg tFine cal).1 = 0) : compPOf cfg raw tFine cal = (0, true) :=
  compP_of_zero h

theorem compPOf_of_divisor_ne_zero (h : (divisorOf cfg tFine cal).1 ≠ 0) :
    compPOf cfg raw tFine cal =
      (cfg.pressBody.refine (unsignedReg raw.adcP) (divisorOf cfg tFine cal).1 (divisorOf cfg tFine cal).2
        (signedReg cal.digP7) (signedReg cal.digP8) (signedReg cal.digP9), false) :=
  compP_of_ne_zero h

/-- An undefined pressure is the sentinel 0 (R58). -/
theorem compPOf_of_undef (h : (compPOf cfg raw tFine cal).2 = true) : (compPOf cfg raw tFine cal).1 = 0 := by
  by_cases hzero : (divisorOf cfg tFine cal).1 = 0
  · rw [compPOf_of_divisor_zero raw hzero]
  · rw [compPOf_of_divisor_ne_zero raw hzero] at h
    cases h

end Divisor

/-! ### The clamp (R63) -/

/-- The unclamped humidity of the registers (R60). -/
def humUnclampedOf (cfg : Config) (raw : RawSample) (tFine : BitVec 32) (cal : CalibrationSet) : Int :=
  humUnclamped cfg.humBody (unsignedReg raw.adcH) (signedReg tFine) (unsignedReg cal.digH1) (signedReg cal.digH2)
    (unsignedReg cal.digH3) (unsignedReg cal.digH4) (unsignedReg cal.digH5) (unsignedReg cal.digH6)

section Clamp

variable {cfg : Config} {raw : RawSample} {tFine : BitVec 32} {cal : CalibrationSet}

theorem compHOf_of_humClamp {clamped : Int} {flags : Bool × Bool}
    (h : humClamp (humUnclampedOf cfg raw tFine cal) = (clamped, flags)) :
    compHOf cfg raw tFine cal = (clamped / 4096, flags) := by
  show (asr (humClamp (humUnclampedOf cfg raw tFine cal)).1 12, (humClamp (humUnclampedOf cfg raw tFine cal)).2) = _
  rw [h]
  norm_num [asr_eq_ediv]

theorem compHOf_of_negative (h : humUnclampedOf cfg raw tFine cal < 0) : compHOf cfg raw tFine cal = (0, true, false) :=
  compHOf_of_humClamp (if_pos h)

theorem compHOf_of_excess (h : 419430400 < humUnclampedOf cfg raw tFine cal) :
    compHOf cfg raw tFine cal = (102400, false, true) :=
  compHOf_of_humClamp ((if_neg (by omega)).trans (if_pos h))

theorem compHOf_of_inside (hlo : 0 ≤ humUnclampedOf cfg raw tFine cal)
    (hhi : humUnclampedOf cfg raw tFine cal ≤ 419430400) :
    compHOf cfg raw tFine cal = (humUnclampedOf cfg raw tFine cal / 4096, false, false) :=
  compHOf_of_humClamp ((if_neg (by omega)).trans (if_neg (not_lt.mpr hhi)))

end Clamp

/-- COMPH's outputs by the unclamped value `y` (R63). -/
theorem comphEffect_clamped (cfg : Config) (s : State) {y : Int} (hy : humUnclampedOf cfg s.raw s.tFine s.cal = y) :
    (y < 0 → (comphEffect cfg s).hum.toNat = 0 ∧
      (comphEffect cfg s).flag .hClampLo = true ∧ (comphEffect cfg s).flag .hClampHi = false) ∧
    (419430400 < y → (comphEffect cfg s).hum.toNat = 102400 ∧
      (comphEffect cfg s).flag .hClampLo = false ∧ (comphEffect cfg s).flag .hClampHi = true) ∧
    (0 ≤ y → y ≤ 419430400 → ((comphEffect cfg s).hum.toNat : Int) = y / 4096 ∧
      (comphEffect cfg s).flag .hClampLo = false ∧ (comphEffect cfg s).flag .hClampHi = false) := by
  subst hy
  have hvalues := comphEffect_values cfg s
  refine ⟨fun h => ?_, fun h => ?_, fun hlo hhi => ?_⟩
  · rw [compHOf_of_negative h, Prod.mk.injEq, Prod.mk.injEq] at hvalues
    exact_mod_cast hvalues
  · rw [compHOf_of_excess h, Prod.mk.injEq, Prod.mk.injEq] at hvalues
    exact_mod_cast hvalues
  · rwa [compHOf_of_inside hlo hhi, Prod.mk.injEq, Prod.mk.injEq] at hvalues

theorem comphEffect_hum_le (cfg : Config) (s : State) : (comphEffect cfg s).hum.toNat ≤ 102400 := by
  have hle := (compHOf_between cfg s.raw s.tFine s.cal).2
  rw [← toNat_hum] at hle
  exact_mod_cast hle

/-! ### COMPT, COMPP and COMPH (R54, R56, R61) -/

/-- Settles O22: the two failing checks, and the effect's values and frame. -/
theorem comptComputesTemperature : Obligations.ComptComputesTemperature := by
  refine ⟨decodeOfEncodeIsTheCommand .compt rfl,
    fun s => ⟨fun hcal => ?_, fun hcal hraw => ?_, fun hcal hraw => ?_⟩⟩
  · exact exec_of_firstFault (if_pos hcal)
  · exact exec_of_firstFault (by simp [firstFault, hcal, hraw])
  · exact ⟨_, exec_of_no_firstFault (by simp [firstFault, hcal, hraw]), comptEffect_values config s, rfl⟩

/-- COMPP on a zero divisor writes the sentinel (R58). -/
theorem comppEffect_of_divisor_zero {cfg : Config} {s : State} (h : (divisorOf cfg s.tFine s.cal).1 = 0) :
    (comppEffect cfg s).press = 0 ∧ (comppEffect cfg s).flag .pUndef = true := by
  rw [comppEffect_press, comppEffect_flag, compPOf_of_divisor_zero s.raw h]
  exact ⟨rfl, rfl⟩

/-- COMPP on a non-zero divisor, with the default body and `T_FINE` in its interval: the refined value, exactly (R56). -/
theorem comppEffect_of_divisor_ne_zero {cfg : Config} {s : State} (h : (divisorOf cfg s.tFine s.cal).1 ≠ 0) :
    (comppEffect cfg s).flag .pUndef = false ∧
      (cfg.pressBody = defaultPressBody → Within (-4194224) s.tFine.toInt 4194144 →
        (comppEffect cfg s).press.toInt =
          cfg.pressBody.refine (unsignedReg s.raw.adcP) (divisorOf cfg s.tFine s.cal).1 (divisorOf cfg s.tFine s.cal).2
            (signedReg s.cal.digP7) (signedReg s.cal.digP8) (signedReg s.cal.digP9)) := by
  refine ⟨?_, fun hbody htFine => ?_⟩
  · rw [comppEffect_flag, compPOf_of_divisor_ne_zero s.raw h]
    rfl
  · rw [comppEffect_press, toInt_press hbody s.raw s.cal htFine, compPOf_of_divisor_ne_zero s.raw h]

/-- Settles O23: the three failing checks, the frame, and the two sides of the guard. -/
theorem comppComputesPressure : Obligations.ComppComputesPressure := by
  refine ⟨decodeOfEncodeIsTheCommand .compp rfl,
    fun s => ⟨fun hcal => ?_, fun hcal hraw => ?_, fun hcal hraw htf => ?_, fun hcal hraw htf => ?_⟩⟩
  · exact exec_of_firstFault (if_pos hcal)
  · exact exec_of_firstFault (by simp [firstFault, hcal, hraw])
  · exact exec_of_firstFault (by simp [firstFault, hcal, hraw, htf])
  · refine ⟨_, exec_of_no_firstFault (by simp [firstFault, hcal, hraw, htf]),
      congrArg responded (comppEffect_frame config s), fun hzero => comppEffect_of_divisor_zero hzero, fun hne => ?_⟩
    obtain ⟨hundef, hpress⟩ := comppEffect_of_divisor_ne_zero hne
    exact ⟨hundef, fun hlo hhi => hpress rfl ⟨hlo, hhi⟩⟩

/-- COMPP and COMPH run where their three checks hold, in every configuration (R71). -/
theorem firstFailing_tFineChecks {s : State} (hcal : s.flag .calValid = true) (hraw : s.flag .rawValid = true)
    (htf : s.flag .tfValid = true) : firstFailing (tFineChecks s) = none := by
  simp [tFineChecks, hcal, hraw, htf]

/-- Settles O53: the value's low bits, which are the value where it fits. -/
theorem pressKeepsTheLowBits : Obligations.PressKeepsTheLowBits := fun cfg s hcal hraw htf =>
  ⟨_, runCommand_ok (comppEffect cfg) (firstFailing_tFineChecks hcal hraw htf), comppEffect_press cfg s,
    fun hlo hhi => BitVec.toInt_ofInt_eq_self (by decide) hlo hhi⟩

/-- Settles O27: the three failing checks, and the effect's values and frame. -/
theorem comphComputesHumidity : Obligations.ComphComputesHumidity := by
  refine ⟨decodeOfEncodeIsTheCommand .comph rfl,
    fun s => ⟨fun hcal => ?_, fun hcal hraw => ?_, fun hcal hraw htf => ?_, fun hcal hraw htf => ?_⟩⟩
  · exact exec_of_firstFault (if_pos hcal)
  · exact exec_of_firstFault (by simp [firstFault, hcal, hraw])
  · exact exec_of_firstFault (by simp [firstFault, hcal, hraw, htf])
  · exact ⟨_, exec_of_no_firstFault (by simp [firstFault, hcal, hraw, htf]), comphEffect_values config s,
      congrArg responded (comphEffect_frame config s)⟩

/-! ### The clamp in COMPH and SAMPLE (R63, R73) -/

/-- Either command ends in COMPH's effect and the response OK. -/
theorem comph_or_sample_ends_in_comphEffect {cfg : Config} {s t : State}
    (h : (s.flag .calValid = true ∧ s.flag .rawValid = true ∧ s.flag .tfValid = true ∧ comphIn cfg s = .next t) ∨
      (s.flag .rbValid = true ∧ s.flag .calValid = true ∧ sampleIn cfg s = .next t)) :
    ∃ u, t = responded (comphEffect cfg u) ∧ u.err = s.err := by
  obtain ⟨hcal, hraw, htf, h⟩ | ⟨hrb, hcal, h⟩ := h
  · rw [comphIn, runCommand_ok _ (firstFailing_tFineChecks hcal hraw htf)] at h
    injection h with h
    exact ⟨s, h.symm, rfl⟩
  · rw [sampleIn, runCommand_ok _ (by simp [hrb, hcal])] at h
    injection h with h
    exact ⟨_, h.symm, by simp⟩

/-- Settles O28: the clamp of the effect both commands end in. -/
theorem humidityIsClamped : Obligations.HumidityIsClamped := by
  intro cfg s t h
  obtain ⟨u, rfl, herr⟩ := comph_or_sample_ends_in_comphEffect h
  exact ⟨rfl, comphEffect_clamped cfg u rfl, comphEffect_hum_le cfg u, (comphEffect_flag cfg u .hValid).trans (if_pos rfl),
    (comphEffect_err cfg u).trans herr⟩

/-! ### SAMPLE as the four commands in order (R64) -/

/-- No command reads the response of the one before it. -/
theorem exec_responded {i : Instr} {s : State} (h : firstFault i s = none) :
    exec i (responded s) = .next (responded (effectOf config i s)) := by
  have hfault : firstFault i (responded s) = firstFault i s := by cases i <;> rfl
  have heffect (cfg : Config) : responded (effectOf cfg i (responded s)) = responded (effectOf cfg i s) := by
    cases i <;> rfl
  rw [exec_of_no_firstFault (hfault.trans h), heffect]

section Parts

variable {cfg : Config} {s : State} (hcal : s.flag .calValid = true)
include hcal

/-! Each part leaves the flags that the next one checks. -/

theorem firstFault_compt_after_unpack : firstFault .compt (effectOf cfg .unpack s) = none := by
  simp [firstFault, effectOf, Flag.ofSample, hcal]

theorem firstFault_compp_after_compt : firstFault .compp (effectOf cfg .compt (effectOf cfg .unpack s)) = none := by
  simp [firstFault, effectOf, Flag.ofSample, hcal]

theorem firstFault_comph_after_compp :
    firstFault .comph (effectOf cfg .compp (effectOf cfg .compt (effectOf cfg .unpack s))) = none := by
  simp [firstFault, effectOf, Flag.ofSample, hcal]

end Parts

/-- SAMPLE's effect is the composition of the four (R64). -/
theorem effectOf_sample (cfg : Config) (s : State) :
    effectOf cfg .sample s = effectOf cfg .comph (effectOf cfg .compp (effectOf cfg .compt (effectOf cfg .unpack s))) :=
  rfl

/-- The flags SAMPLE sets (R64). -/
theorem effectOf_sample_flag (cfg : Config) (s : State) {f : Flag}
    (hf : f ∈ [Flag.rawValid, .tfValid, .tValid, .pValid, .hValid]) :
    (responded (effectOf cfg .sample s)).flag f = true := by
  show (sampleEffect cfg s).flag f = true
  cases f <;> simp_all [sampleEffect]

/-- Settles O30: the four commands one after another, and SAMPLE's effect as their composition. -/
theorem sampleEqualsTheSplitSequence : Obligations.SampleEqualsTheSplitSequence := by
  refine ⟨decodeOfEncodeIsTheCommand .sample rfl,
    fun s => ⟨fun hrb => ?_, fun hrb hcal => ?_, fun hrb hcal => ?_⟩⟩
  · exact exec_of_firstFault (if_pos hrb)
  · exact exec_of_firstFault (by simp [firstFault, hrb, hcal])
  · have hunpack : firstFault .unpack s = none := by simp [firstFault, hrb]
    have hsample : firstFault .sample s = none := by simp [firstFault, hrb, hcal]
    have hflag {f : Flag} := effectOf_sample_flag config s (f := f)
    have hcomph := exec_responded (firstFault_comph_after_compp (cfg := config) hcal)
    rw [← effectOf_sample] at hcomph
    exact ⟨_, _, _, _, exec_of_no_firstFault hunpack, rfl, exec_responded (firstFault_compt_after_unpack hcal), rfl,
      exec_responded (firstFault_compp_after_compt hcal), rfl, hcomph, rfl, exec_of_no_firstFault hsample,
      hflag (by decide), hflag (by decide), hflag (by decide), hflag (by decide), hflag (by decide)⟩

end Sys2Proof.Machine
end

section
/-! PROOFS. What the outputs depend on (spec/41_compensation.md R65): a command issued again from where it ended changes
nothing, and each output is a function of its formula's arguments. -/

namespace Sys2Proof.Machine

open Sys2Proof.Claims

/-- A command that responds OK ran its effect (R45, R71). -/
theorem exec_output_ok {i : Instr} {s t : State} (h : exec i s = .next t) (hok : t.output = some (.response .ok)) :
    firstFailing (checksOf config i s) = none ∧ t = responded (effectOf config i s) := by
  obtain ⟨c, -, rfl⟩ | h := exec_cases h
  · cases hok
  · exact h

/-! ### Re-issuing a command (R64, R65(d)) -/

section Repeat

variable (cfg : Config) {i : Instr} {s : State}

/-! The four effects keep the buffer, so a second UNPACK decodes the same sample. -/

@[simp] theorem decodeRaw_unpackEffect (m : AddrMap) : decodeRaw m (unpackEffect cfg s) = decodeRaw m s :=
  decodeRaw_congr m fun _ => rfl
@[simp] theorem decodeRaw_comptEffect (m : AddrMap) : decodeRaw m (comptEffect cfg s) = decodeRaw m s :=
  decodeRaw_congr m fun _ => rfl
@[simp] theorem decodeRaw_comppEffect (m : AddrMap) : decodeRaw m (comppEffect cfg s) = decodeRaw m s :=
  decodeRaw_congr m fun _ => rfl
@[simp] theorem decodeRaw_comphEffect (m : AddrMap) : decodeRaw m (comphEffect cfg s) = decodeRaw m s :=
  decodeRaw_congr m fun _ => rfl

/-- The inputs of COMPT, COMPP and COMPH are registers they do not write, and those of SAMPLE are in the buffer. -/
theorem effectOf_effectOf (hi : i = .compt ∨ i = .compp ∨ i = .comph ∨ i = .sample) :
    effectOf cfg i (effectOf cfg i s) = effectOf cfg i s := by
  apply State.ext_fields
  case hflag =>
    intro f
    obtain rfl | rfl | rfl | rfl := hi <;> cases f <;> simp [effectOf, sampleEffect, Flag.ofSample]
  all_goals
    obtain rfl | rfl | rfl | rfl := hi <;> simp [effectOf, sampleEffect]

/-- No such command clears a flag that it checks. -/
theorem firstFailing_checksOf_effectOf (hi : i = .compt ∨ i = .compp ∨ i = .comph ∨ i = .sample)
    (h : firstFailing (checksOf cfg i s) = none) : firstFailing (checksOf cfg i (effectOf cfg i s)) = none := by
  obtain rfl | rfl | rfl | rfl := hi <;>
    simp_all [checksOf, tFineChecks, effectOf, sampleEffect, Flag.ofSample]

end Repeat

/-- Settles O32: the checks hold again, and the effect is idempotent. -/
theorem recomputingChangesNothing : Obligations.RecomputingChangesNothing := by
  intro i s t hi h hok
  obtain ⟨hchecks, rfl⟩ := exec_output_ok h hok
  have hagain := firstFailing_checksOf_effectOf config hi hchecks
  rw [firstFailing_checksOf] at hagain
  rw [exec_responded hagain, effectOf_effectOf config hi]

/-! ### The arguments of the outputs (R65(a)) -/

theorem toInt_zeroExtend_of_lt {m n : Nat} (v : BitVec m) (h : m < n) : (v.zeroExtend n).toInt = v.toNat := by
  rw [BitVec.zeroExtend, BitVec.setWidth, dif_pos h.le, BitVec.toInt_setWidth'_of_lt h]

/-- The port's 128 bits hold a register's value under its type (R22). -/
theorem toInt_regWord (s : State) (r : Reg) : (s.regWord r).toInt = registerValue s r := by
  cases r with
  | press => rfl
  | res | temp | tFine | digT2 | digT3 | digP2 | digP3 | digP4 | digP5 | digP6 | digP7 | digP8 | digP9 | digH2 =>
    exact BitVec.toInt_signExtend_of_le (by decide)
  | _ => exact toInt_zeroExtend_of_lt _ (by decide)

theorem registerValue_of_regWord {s s' : State} {r : Reg} (h : s.regWord r = s'.regWord r) :
    registerValue s r = registerValue s' r := by
  rw [← toInt_regWord, h, toInt_regWord]

section Arguments

variable (cfg : Config) (s : State)

/-! The formulas on the registers, as functions of the registers' values (R54, R56, R61). -/

theorem compTOf_eq : compTOf cfg s.raw s.cal = compT cfg.tVar1Form (registerValue s .adcT) (registerValue s .digT1)
    (registerValue s .digT2) (registerValue s .digT3) := rfl

theorem compPOf_eq : compPOf cfg s.raw s.tFine s.cal = compP cfg.pressBody (registerValue s .adcP)
    (registerValue s .tFine) (registerValue s .digP1) (registerValue s .digP2) (registerValue s .digP3)
    (registerValue s .digP4) (registerValue s .digP5) (registerValue s .digP6) (registerValue s .digP7)
    (registerValue s .digP8) (registerValue s .digP9) := rfl

theorem compHOf_eq : compHOf cfg s.raw s.tFine s.cal = compH cfg.humBody (registerValue s .adcH)
    (registerValue s .tFine) (registerValue s .digH1) (registerValue s .digH2) (registerValue s .digH3)
    (registerValue s .digH4) (registerValue s .digH5) (registerValue s .digH6) := rfl

end Arguments

section Outputs

variable {cfg : Config} {s s' : State}

/-! The outputs of two states on which the formula has one value. -/

theorem comptEffect_congr (h : compTOf cfg s.raw s.cal = compTOf cfg s'.raw s'.cal) :
    (comptEffect cfg s).temp = (comptEffect cfg s').temp ∧ (comptEffect cfg s).tFine = (comptEffect cfg s').tFine := by
  simp [h]

theorem comppEffect_congr (h : compPOf cfg s.raw s.tFine s.cal = compPOf cfg s'.raw s'.tFine s'.cal) :
    (comppEffect cfg s).press = (comppEffect cfg s').press ∧
      (comppEffect cfg s).flag .pUndef = (comppEffect cfg s').flag .pUndef := by
  simp [h]

theorem comphEffect_congr (h : compHOf cfg s.raw s.tFine s.cal = compHOf cfg s'.raw s'.tFine s'.cal) :
    (comphEffect cfg s).hum = (comphEffect cfg s').hum ∧
      (comphEffect cfg s).flag .hClampLo = (comphEffect cfg s').flag .hClampLo ∧
      (comphEffect cfg s).flag .hClampHi = (comphEffect cfg s').flag .hClampHi := by
  simp [h]

end Outputs

/-- Settles O33: each effect writes its formula's value, and the formula reads the values of the listed registers. -/
theorem outputsDependOnTheirArgumentsAlone : Obligations.OutputsDependOnTheirArgumentsAlone := by
  have hvalues {s s' : State} {regs : List Reg} (h : ∀ r, r ∈ regs → s.regWord r = s'.regWord r) (r : Reg)
      (hr : r ∈ regs) : registerValue s r = registerValue s' r := registerValue_of_regWord (h r hr)
  refine ⟨fun s s' t t' h h' hok hok' hregs => ?_, fun s s' t t' h h' hok hok' hregs => ?_,
    fun s s' t t' h h' hok hok' hregs => ?_⟩
  all_goals
    obtain ⟨-, rfl⟩ := exec_output_ok h hok
    obtain ⟨-, rfl⟩ := exec_output_ok h' hok'
  · exact comptEffect_congr (by simp [compTOf_eq, hvalues hregs])
  · exact comppEffect_congr (by simp [compPOf_eq, hvalues hregs])
  · exact comphEffect_congr (by simp [compHOf_eq, hvalues hregs])

end Sys2Proof.Machine
end

section
/-! PROOFS. Every step answers a next state (spec/60_exceptions.md R68, R69, R74), the invariant holds along every run, and
what it says of the outputs in their units (spec/41_compensation.md R65 to R67). -/

namespace Sys2Proof.Machine

open Sys2Proof.Claims

/-! ### Progress -/

theorem exec_completes (i : Instr) (s : State) : ∃ t, exec i s = .next t := by
  rw [exec_eq_runCommand]
  exact runCommand_completes _ _ _

theorem runWord_completes (w : CmdWord) (s : State) : ∃ t, runWord w s = .next t := by
  unfold runWord
  split
  · exact exec_completes _ s
  · exact ⟨_, rfl⟩

/-- Every action of the host completes (R90). -/
theorem runAction_completes (a : HostAction) (s : State) : ∃ t, runAction a s = .next t := by
  cases a with
  | command w => exact runWord_completes w s
  | reset | load | read => exact ⟨_, rfl⟩

/-- Settles O8: a step idles or runs an action. -/
theorem everyStepAnswersANextState : Obligations.EveryStepAnswersANextState := by
  intro s
  cases hact : s.actions with
  | nil => exact ⟨s, step_idle hact⟩
  | cons a rest =>
    rw [step_action hact]
    exact runAction_completes a _

/-! ### The invariant along a run -/

/-- A reset gives a state that meets the invariant (R87). -/
theorem hostReset_inv (s : State) : (hostReset s).Inv :=
  ⟨bufferInOrder_of_empty rfl (hostReset_flag s _), hostReset_statusInOrder s, hostReset_outputsCoherent config s⟩

/-- The invariant says nothing of the host's list. -/
theorem State.Inv.withActions {s : State} (hs : s.Inv) (actions : List HostAction) :
    State.Inv { s with actions := actions } := by
  obtain ⟨hstatus, houtputs⟩ := stepInvariant_outputsCoherent.host actions s.output s.draws ⟨hs.status, hs.outputs⟩
  exact ⟨stepInvariant_bufferInOrder.host actions s.output s.draws hs.buffer, hstatus, houtputs⟩

theorem step_inv {s t : State} (hs : s.Inv) (h : step s = .next t) : t.Inv :=
  ⟨stepKeepsTheBufferInOrder s t hs.buffer h, stepKeepsStatusInOrder s t hs.status h,
    stepKeepsOutputsCoherent s t hs.status hs.outputs h⟩

/-- Settles O50: by induction on the run. -/
theorem reachableStatesMeetTheInvariant : Obligations.ReachableStatesMeetTheInvariant := by
  intro s h
  induction h with
  | reset => exact hostReset_inv State.reset
  | offer s more _ ih => exact ih.withActions (s.actions ++ more)
  | step s t _ hstep ih => exact step_inv ih hstep

/-! ### Outputs in their units (R67) -/

section Units

variable {s : State} (hs : s.Inv)
include hs

theorem State.Inv.hum_le (hv : s.flag .hValid = true) : s.hum.toNat ≤ 102400 := by
  have hbound := (compHOf_between config s.raw s.tFine s.cal).2
  rw [← (hs.outputs.hum hv).1] at hbound
  exact_mod_cast hbound

theorem State.Inv.temp_within (hv : s.flag .tValid = true) : Within (-81918) s.temp.toInt 81917 := by
  rw [hs.outputs.temp hv]
  exact compTOf_temp_within config s.raw s.cal

theorem State.Inv.press_of_undef (hv : s.flag .pValid = true) (hundef : s.flag .pUndef = true) : s.press = 0 := by
  obtain ⟨hpress, hflag⟩ := hs.outputs.press hv
  rw [compPOf_of_undef s.raw (hflag.symm.trans hundef)] at hpress
  exact BitVec.eq_of_toInt_eq hpress

end Units

/-- Settles O51: each output lies in its formula's interval, here divided by its unit. -/
theorem validOutputsArePhysicalQuantities : Obligations.ValidOutputsArePhysicalQuantities := by
  intro s hs
  refine ⟨fun hv => ?_, fun hv => ?_, fun hv hundef => ⟨hs.press_of_undef hv hundef, if_pos hundef⟩⟩
  · have hle : (s.hum.toNat : ℚ) ≤ 102400 := by exact_mod_cast hs.hum_le hv
    rw [State.percentHumidity]
    constructor
    · positivity
    · linarith
  · obtain ⟨hlo, hhi⟩ := hs.temp_within hv
    have hlo' : (-81918 : ℚ) ≤ s.temp.toInt := by exact_mod_cast hlo
    have hhi' : (s.temp.toInt : ℚ) ≤ 81917 := by exact_mod_cast hhi
    rw [State.degreesCelsius]
    constructor <;> linarith

end Sys2Proof.Machine
end

section
/-! PROOFS. Faults (spec/60_exceptions.md R71, R72, R76, R77): the response of every command word, what taking a fault
changes, that no command reads `ERR`, and the zero divisor, which is no fault. -/

namespace Sys2Proof.Machine

open Sys2Proof.Claims

/-! ### The first failing check (R71) -/

/-- The checks read `STATUS` alone, not the host's list. -/
theorem firstFault_withActions (i : Instr) (s : State) (actions : List HostAction) :
    firstFault i { s with actions := actions } = firstFault i s := by
  cases i <;> rfl

/-- How a command ends: with the response of its first failing check, or OK. -/
theorem exec_response (i : Instr) (s : State) :
    ∃ t, exec i s = .next t ∧ t.output = some (.response (responseOf (firstFault i s))) := by
  cases h : firstFault i s with
  | none => exact ⟨_, exec_of_no_firstFault h, rfl⟩
  | some c => exact ⟨_, exec_of_firstFault h, rfl⟩

/-- The step of an illegal word (R42). -/
theorem step_of_illegal_word {s : State} {w : CmdWord} {rest : List HostAction} {e : DecodeReject}
    (hact : s.actions = .command w :: rest) (hdec : decode w = .error e) :
    step s = .next (faulted .illegalCmd { s with actions := rest }) := by
  obtain ⟨-, -, -, hstep⟩ := illegalWordsTakeFaultOne
  exact hstep s w rest e hact hdec

/-- Settles O10: an illegal word has its one fault, a legal word the response of its command. -/
theorem firstFailingCheckIsReported : Obligations.FirstFailingCheckIsReported := by
  intro s w rest hact
  cases hdec : decode w with
  | error e => exact ⟨_, step_of_illegal_word hact hdec, rfl⟩
  | ok i =>
    have hresponse := exec_response i { s with actions := rest }
    rwa [firstFault_withActions, ← stepRunsTheDecodedCommand s w rest i hact hdec] at hresponse

/-! ### Taking a fault (R76) -/

/-- A command that responds with a fault has taken that fault, and had no effect. -/
theorem exec_output_fault {i : Instr} {s t : State} {c : FaultCode} (h : exec i s = .next t)
    (hfault : t.output = some (.response (.fault c))) : t = raiseFault c s := by
  obtain ⟨c', -, rfl⟩ | ⟨-, rfl⟩ := exec_cases h
  · cases hfault
    rfl
  · cases hfault

/-- Settles O11: a fault of the command or of the illegal word; the flags and `ERR` are those of `raiseFault`. -/
theorem faultEntryChangesOnlyErr : Obligations.FaultEntryChangesOnlyErr := by
  refine ⟨fun i s t c h hfault => ?_, fun s t w rest c hact h hfault => ?_⟩
  · obtain rfl := exec_output_fault h hfault
    exact ⟨raiseFault_eq c s, raiseFault_flag c s, raiseFault_err c s⟩
  · cases hdec : decode w with
    | error e =>
      rw [step_of_illegal_word hact hdec] at h
      cases h
      cases hfault
      rfl
    | ok i =>
      rw [stepRunsTheDecodedCommand s w rest i hact hdec] at h
      exact (exec_output_fault h hfault).trans (raiseFault_eq c _)

/-! ### No command reads `ERR` (R77) -/

/-- `ERR` and the flags are separate fields of `STATUS` (R21). -/
theorem putErr_putFlag (st : BitVec 16) (f : Flag) (b : Bool) (e : BitVec 4) :
    putErr (putFlag st f b) e = putFlag (putErr st e) f b :=
  status_ext (by simp) (by simp) (by simp)

theorem putErr_putErr (st : BitVec 16) (e e' : BitVec 4) : putErr (putErr st e) e' = putErr st e' :=
  status_ext (by simp) (by simp) (by simp)

section Err

variable (cfg : Config) (i : Instr) (c : FaultCode) (s : State) (e e' : BitVec 4)

theorem State.setErr_setFlag (f : Flag) (b : Bool) : (s.setFlag f b).setErr e = (s.setErr e).setFlag f b := by
  simp only [State.setErr, State.setFlag, putErr_putFlag]

theorem State.setErr_setErr : (s.setErr e).setErr e' = s.setErr e' := by
  simp only [State.setErr, putErr_putErr]

/-! An effect writes registers and then flags, none of them from `ERR`. -/

theorem setResult_setErr (v : Int) : setResult v (s.setErr e) = (setResult v s).setErr e := by
  simp only [setResult, State.setErr_setFlag]
  rfl

theorem ldcalEffect_setErr : ldcalEffect cfg (s.setErr e) = (ldcalEffect cfg s).setErr e := by
  simp only [ldcalEffect, State.setErr_setFlag]
  rfl

theorem unpackEffect_setErr : unpackEffect cfg (s.setErr e) = (unpackEffect cfg s).setErr e := by
  simp only [unpackEffect, clearSampleFlags, State.setErr_setFlag]
  rfl

theorem comptEffect_setErr : comptEffect cfg (s.setErr e) = (comptEffect cfg s).setErr e := by
  simp only [comptEffect, State.setErr_setFlag]
  rfl

theorem comppEffect_setErr : comppEffect cfg (s.setErr e) = (comppEffect cfg s).setErr e := by
  simp only [comppEffect, State.setErr_setFlag]
  rfl

theorem comphEffect_setErr : comphEffect cfg (s.setErr e) = (comphEffect cfg s).setErr e := by
  simp only [comphEffect, State.setErr_setFlag]
  rfl

theorem effectOf_setErr : effectOf cfg i (s.setErr e) = (effectOf cfg i s).setErr e := by
  cases i with
  | rdu16 addr => exact setResult_setErr s e (s.memRead2 addr)
  | rds16 addr => exact setResult_setErr s e (s.memReadS16 addr)
  | ldcal => exact ldcalEffect_setErr cfg s e
  | unpack => exact unpackEffect_setErr cfg s e
  | compt => exact comptEffect_setErr cfg s e
  | compp => exact comppEffect_setErr cfg s e
  | comph => exact comphEffect_setErr cfg s e
  | sample =>
    simp only [effectOf, sampleEffect, unpackEffect_setErr, comptEffect_setErr, comppEffect_setErr, comphEffect_setErr]

/-- The checks read flags, not `ERR`. -/
theorem firstFailing_checksOf_setErr :
    firstFailing (checksOf cfg i (s.setErr e)) = firstFailing (checksOf cfg i s) := by
  cases i <;> simp [checksOf, readChecks, tFineChecks]

/-- But for `ERR`, a fault leaves its response alone (R76). -/
theorem raiseFault_setErr : (raiseFault c s).setErr e = (s.setErr e).answer (.response (.fault c)) := by
  unfold raiseFault
  split
  · exact congrArg (State.answer · _) (State.setErr_setErr s c.code e)
  · rfl

end Err

/-- Settles O13: the same check fails, or none does and the effect commutes with writing `ERR`. -/
theorem errInfluencesNoCommand : Obligations.ErrInfluencesNoCommand := by
  intro i s t e h
  obtain ⟨c, hfail, rfl⟩ | ⟨hok, rfl⟩ := exec_cases h
  · refine ⟨_, exec_fault ((firstFailing_checksOf_setErr config i s e).trans hfail), ?_⟩
    rw [raiseFault_setErr, raiseFault_setErr, State.setErr_setErr]
  · refine ⟨_, exec_ok ((firstFailing_checksOf_setErr config i s e).trans hok), ?_⟩
    rw [effectOf_setErr]
    exact congrArg (State.answer · _) (State.setErr_setErr (effectOf config i s) e 0)

/-! ### The zero divisor in COMPP and SAMPLE (R72) -/

/-- COMPP ends in its effect, and SAMPLE in COMPH's after it. -/
theorem compp_or_sample_ends_after_comppEffect {cfg : Config} {s t : State}
    (h : (s.flag .calValid = true ∧ s.flag .rawValid = true ∧ s.flag .tfValid = true ∧ comppIn cfg s = .next t) ∨
      (s.flag .rbValid = true ∧ s.flag .calValid = true ∧ sampleIn cfg s = .next t)) :
    ∃ u, (t = responded (comppEffect cfg u) ∨ t = responded (comphEffect cfg (comppEffect cfg u))) ∧ u.err = s.err := by
  obtain ⟨hcal, hraw, htf, h⟩ | ⟨hrb, hcal, h⟩ := h
  · rw [comppIn, runCommand_ok _ (firstFailing_tFineChecks hcal hraw htf)] at h
    injection h with h
    exact ⟨s, .inl h.symm, rfl⟩
  · rw [sampleIn, runCommand_ok _ (by simp [hrb, hcal])] at h
    injection h with h
    exact ⟨_, .inr h.symm, by simp⟩

/-- Settles O24: the sentinel of COMPP's effect, of which COMPH writes nothing. -/
theorem zeroDivisorGivesTheSentinel : Obligations.ZeroDivisorGivesTheSentinel := by
  intro cfg s t h hzero
  obtain ⟨u, hend, herr⟩ := compp_or_sample_ends_after_comppEffect h
  have hdivisor : (divisorOf cfg u.tFine u.cal).1 = 0 := by
    obtain rfl | rfl := hend <;> exact hzero
  obtain ⟨hpress, hundef⟩ := comppEffect_of_divisor_zero hdivisor
  have hvalid : (comppEffect cfg u).flag .pValid = true := (comppEffect_flag cfg u .pValid).trans (if_pos rfl)
  have herr' : (comppEffect cfg u).err = s.err := (comppEffect_err cfg u).trans herr
  obtain rfl | rfl := hend
  · exact ⟨rfl, hpress, hundef, hvalid, herr'⟩
  · exact ⟨rfl, hpress, (comphEffect_flag cfg _ .pUndef).trans hundef, (comphEffect_flag cfg _ .pValid).trans hvalid,
      (comphEffect_err cfg _).trans herr'⟩

end Sys2Proof.Machine
end

section
/-! PROOFS. The valid flag of a register, and which commands write one (spec/10_state.md R16 to R22). -/

namespace Sys2Proof.Machine

open Sys2Proof.Claims

/-- A register other than `STATUS` is valid under a flag. -/
theorem exists_validFlag {r : Reg} (hr : r ≠ .status) : ∃ f, r.validFlag = some f := by
  cases r with
  | status => exact absurd rfl hr
  | _ => exact ⟨_, rfl⟩

theorem regValid_eq_flag (s : State) {r : Reg} {f : Flag} (hr : r.validFlag = some f) : s.regValid r = s.flag f := by
  rw [State.regValid, hr]

/-- `RB_VALID` is no register's flag. -/
theorem validFlag_ne_rbValid (r : Reg) : r.validFlag ≠ some .rbValid := by cases r <;> decide

/-- A command that writes a register's valid flag writes the register too, but for UNPACK, which clears the flags of the
old sample (R51). -/
theorem mem_writtenRegs_or_unpack {i : Instr} {r : Reg} {f : Flag} (hr : r.validFlag = some f)
    (hf : f ∈ writtenFlags i) : r ∈ writtenRegs i ∨ (i = .unpack ∧ f.ofSample = true) := by
  cases r with
  | status => cases hr
  | _ => cases hr; cases i <;> simp_all [writtenFlags, writtenRegs, Flag.ofSample]

/-- No command makes a register valid that it does not write. -/
theorem regValid_of_effectOf {cfg : Config} {i : Instr} {s : State} {r : Reg} (hw : r ∉ writtenRegs i)
    (hv : (effectOf cfg i s).regValid r = true) : s.regValid r = true := by
  by_cases hstatus : r = .status
  · subst hstatus; rfl
  obtain ⟨f, hr⟩ := exists_validFlag hstatus
  rw [regValid_eq_flag _ hr] at hv ⊢
  by_cases hf : f ∈ writtenFlags i
  · obtain hmem | ⟨rfl, hsample⟩ := mem_writtenRegs_or_unpack hr hf
    · exact absurd hmem hw
    · have hne : f ≠ .rawValid := by rintro rfl; cases hsample
      simp [effectOf, hsample, hne] at hv
  · rwa [effectOf_flag cfg s hf] at hv

end Sys2Proof.Machine
end

section
/-! PROOFS. No specified value depends on an unspecified one (spec/10_state.md R22; spec/70_reset_and_hazards.md R87;
spec/93_implementation_defined.md U1, U6): agreement on the specified state is a relation that every move of a step keeps.
A command reads only registers and bytes whose valid flags its checks ask for. -/

namespace Sys2Proof.Claims

open Sys2Proof.Machine

/-! ### What agreement gives, and what gives agreement -/

namespace AgreeOnSpecified

section Uses

variable {s s' : State} (h : AgreeOnSpecified s s')
include h

theorem flag (f : Flag) : s.flag f = s'.flag f := by rw [State.flag, State.flag, h.status]

theorem err : s.err = s'.err := by rw [State.err, State.err, h.status]

/-- The checks of a command read `STATUS` alone. -/
theorem checksOf (cfg : Config) (i : Instr) : checksOf cfg i s = checksOf cfg i s' := by
  cases i <;> simp only [Machine.checksOf, readChecks, tFineChecks, h.flag]

theorem registerValue {r : Reg} (hv : s.regValid r = true) : registerValue s r = registerValue s' r :=
  registerValue_of_regWord (h.regs r hv)

theorem compTOf (cfg : Config) (hcal : s.flag .calValid = true) (hraw : s.flag .rawValid = true) :
    compTOf cfg s.raw s.cal = compTOf cfg s'.raw s'.cal := by
  simp [compTOf_eq, h.registerValue, State.regValid, Reg.validFlag, hcal, hraw]

theorem compPOf (cfg : Config) (hcal : s.flag .calValid = true) (hraw : s.flag .rawValid = true)
    (htf : s.flag .tfValid = true) : compPOf cfg s.raw s.tFine s.cal = compPOf cfg s'.raw s'.tFine s'.cal := by
  simp [compPOf_eq, h.registerValue, State.regValid, Reg.validFlag, hcal, hraw, htf]

theorem compHOf (cfg : Config) (hcal : s.flag .calValid = true) (hraw : s.flag .rawValid = true)
    (htf : s.flag .tfValid = true) : compHOf cfg s.raw s.tFine s.cal = compHOf cfg s'.raw s'.tFine s'.cal := by
  simp [compHOf_eq, h.registerValue, State.regValid, Reg.validFlag, hcal, hraw, htf]

theorem memRead2 (hrb : s.flag .rbValid = true) (addr : Nat) : s.memRead2 addr = s'.memRead2 addr := by
  simp only [State.memRead2, State.rbByte_congr (h.buffer hrb)]

/-! The host's side is common to both states. -/

theorem answer (o : Output) : AgreeOnSpecified (s.answer o) (s'.answer o) :=
  { h with output := rfl }

theorem withActions (actions : List HostAction) :
    AgreeOnSpecified { s with actions := actions } { s' with actions := actions } :=
  { h with actions := rfl }

theorem withDraws (n : Nat) : AgreeOnSpecified { s with draws := n } { s' with draws := n } :=
  { h with draws := rfl }

/-- Two states that agree stay so when both get the same `STATUS` with the valid flags of registers as they were, and a
buffer that is the same under `RB_VALID`. -/
theorem withStatus {st : BitVec 16} {rb rb' : Memory} (hst : ∀ f, f ≠ .rbValid → getFlag st f = s.flag f)
    (hrb : getFlag st .rbValid = true → ∀ a, rb.read a = rb'.read a) :
    AgreeOnSpecified { s with status := st, rb := rb } { s' with status := st, rb := rb' } where
  status := rfl
  actions := h.actions
  output := h.output
  draws := h.draws
  buffer := hrb
  regs r hv := by
    by_cases hstatus : r = .status
    · subst hstatus; rfl
    obtain ⟨f, hr⟩ := exists_validFlag hstatus
    have hf : f ≠ .rbValid := fun e => validFlag_ne_rbValid r (e ▸ hr)
    have hbefore : s.regValid r = true := by
      rw [regValid_eq_flag _ hr] at hv ⊢
      exact (hst f hf).symm.trans hv
    have hword := h.regs r hbefore
    cases r with
    | status => exact absurd rfl hstatus
    | _ => exact hword

theorem raiseFault (c : FaultCode) : AgreeOnSpecified (raiseFault c s) (raiseFault c s') := by
  have hlatch : AgreeOnSpecified (s.setErr c.code) (s'.setErr c.code) := by
    have hst := h.withStatus (st := putErr s.status c.code) (fun f _ => getFlag_putErr _ _ f)
      (fun hf => h.buffer ((getFlag_putErr _ _ _).symm.trans hf))
    rw [State.setErr, State.setErr, ← h.status]
    exact hst
  rw [Machine.raiseFault, Machine.raiseFault, ← h.err]
  split
  · exact hlatch.answer _
  · exact h.answer _

theorem hostLoad (bytes : List Byte) : AgreeOnSpecified (hostLoad bytes s) (hostLoad bytes s') := by
  rw [Machine.hostLoad, Machine.hostLoad]
  by_cases hlen : bytes.length = rbLen config
  · rw [hostLoadIn_right s hlen, hostLoadIn_right s' hlen, State.setFlag, State.setFlag, ← h.status]
    exact h.withStatus (fun f hf => by simp [hf, State.flag]) fun _ _ => rfl
  · rw [hostLoadIn_wrong s hlen, hostLoadIn_wrong s' hlen, State.setFlag, State.setFlag, ← h.status]
    exact h.withStatus (fun f hf => by simp [hf, State.flag]) fun _ _ => rfl

/-- A read of an invalid register draws the same free value in both states (U1; log 9). -/
theorem hostRead (idx : RegIndex) : AgreeOnSpecified (hostRead idx s) (hostRead idx s') := by
  cases hidx : Reg.ofIndex idx with
  | none =>
    rw [hostRead_unassigned s hidx, hostRead_unassigned s' hidx]
    exact h.answer _
  | some r =>
    obtain rfl := Reg.index_of_ofIndex hidx
    have hvalid : s'.regValid r = s.regValid r := by simp only [State.regValid, h.flag]
    cases hv : s.regValid r with
    | true =>
      rw [hostRead_valid hv, hostRead_valid (hvalid.trans hv), ← h.regs r hv]
      exact h.answer _
    | false =>
      rw [hostRead_invalid hv, hostRead_invalid (hvalid.trans hv), ← h.draws]
      exact (h.withDraws _).answer _

/-- A reset leaves only the host's side of the state before it (R87; log 7, log 11). -/
theorem hostReset : hostReset s = hostReset s' := by
  rw [Machine.hostReset, Machine.hostReset, h.actions, h.draws]

end Uses

theorem refl (s : State) : AgreeOnSpecified s s :=
  ⟨rfl, rfl, rfl, rfl, fun _ _ => rfl, fun _ _ => rfl⟩

/-! ### Commands -/

section Effects

variable {cfg : Config} {s s' : State} (h : AgreeOnSpecified s s')
include h

/-- An effect keeps agreement when `STATUS` and the registers it writes do not depend on what is unspecified. -/
theorem effectOf_of_written {i : Instr} (hstatus : (effectOf cfg i s).status = (effectOf cfg i s').status)
    (hwritten : ∀ r ∈ writtenRegs i, (effectOf cfg i s).regWord r = (effectOf cfg i s').regWord r) :
    AgreeOnSpecified (effectOf cfg i s) (effectOf cfg i s') where
  status := hstatus
  actions := by simp [h.actions]
  output := by cases i <;> simp [effectOf, sampleEffect, h.output]
  draws := by simp [h.draws]
  regs r hv := by
    by_cases hw : r ∈ writtenRegs i
    · exact hwritten r hw
    by_cases hr : r = .status
    · subst hr; exact congrArg (BitVec.zeroExtend 128) hstatus
    · rw [effectOf_regWord cfg s hr hw, effectOf_regWord cfg s' hr hw]
      exact h.regs r (regValid_of_effectOf hw hv)
  buffer hrb a := by
    rw [effectOf_rb, effectOf_rb]
    exact h.buffer ((effectOf_rbValid cfg i s).symm.trans hrb) a

theorem rdu16 {addr : Nat} (hrb : s.flag .rbValid = true) :
    AgreeOnSpecified (effectOf cfg (.rdu16 addr) s) (effectOf cfg (.rdu16 addr) s') :=
  h.effectOf_of_written (by simp [effectOf, setResult, h.status])
    (by simp [writtenRegs, effectOf, State.regWord, h.memRead2 hrb])

theorem rds16 {addr : Nat} (hrb : s.flag .rbValid = true) :
    AgreeOnSpecified (effectOf cfg (.rds16 addr) s) (effectOf cfg (.rds16 addr) s') :=
  h.effectOf_of_written (by simp [effectOf, setResult, h.status])
    (by simp [writtenRegs, effectOf, State.regWord, State.memReadS16, h.memRead2 hrb])

theorem ldcal (hrb : s.flag .rbValid = true) :
    AgreeOnSpecified (effectOf cfg .ldcal s) (effectOf cfg .ldcal s') := by
  have hcal := decodeCalibration_congr cfg.addrMap (h.buffer hrb)
  exact h.effectOf_of_written (by simp [effectOf, ldcalEffect, h.status])
    (by simp [writtenRegs, effectOf, State.regWord, hcal])

theorem unpack (hrb : s.flag .rbValid = true) :
    AgreeOnSpecified (effectOf cfg .unpack s) (effectOf cfg .unpack s') := by
  have hraw := decodeRaw_congr cfg.addrMap (h.buffer hrb)
  exact h.effectOf_of_written (by simp [effectOf, unpackEffect, clearSampleFlags, h.status])
    (by simp [writtenRegs, effectOf, State.regWord, hraw])

theorem compt (hcal : s.flag .calValid = true) (hraw : s.flag .rawValid = true) :
    AgreeOnSpecified (effectOf cfg .compt s) (effectOf cfg .compt s') := by
  have hvalue := h.compTOf cfg hcal hraw
  exact h.effectOf_of_written (by simp [effectOf, comptEffect, h.status])
    (by simp [writtenRegs, effectOf, State.regWord, hvalue])

theorem compp (hcal : s.flag .calValid = true) (hraw : s.flag .rawValid = true) (htf : s.flag .tfValid = true) :
    AgreeOnSpecified (effectOf cfg .compp s) (effectOf cfg .compp s') := by
  have hvalue := h.compPOf cfg hcal hraw htf
  exact h.effectOf_of_written (by simp [effectOf, comppEffect, h.status, hvalue])
    (by simp [writtenRegs, effectOf, State.regWord, hvalue])

theorem comph (hcal : s.flag .calValid = true) (hraw : s.flag .rawValid = true) (htf : s.flag .tfValid = true) :
    AgreeOnSpecified (effectOf cfg .comph s) (effectOf cfg .comph s') := by
  have hvalue := h.compHOf cfg hcal hraw htf
  exact h.effectOf_of_written (by simp [effectOf, comphEffect, h.status, hvalue])
    (by simp [writtenRegs, effectOf, State.regWord, hvalue])

/-- SAMPLE is the four parts in order; each makes valid what the next reads (R64). -/
theorem sample (hrb : s.flag .rbValid = true) (hcal : s.flag .calValid = true) :
    AgreeOnSpecified (effectOf cfg .sample s) (effectOf cfg .sample s') := by
  have hunpack := h.unpack (cfg := cfg) hrb
  have hcompt := hunpack.compt (cfg := cfg) (by simp [effectOf, Flag.ofSample, hcal]) (by simp [effectOf])
  have hcompp := hcompt.compp (cfg := cfg) (by simp [effectOf, Flag.ofSample, hcal]) (by simp [effectOf])
    (by simp [effectOf])
  exact hcompp.comph (by simp [effectOf, Flag.ofSample, hcal]) (by simp [effectOf]) (by simp [effectOf])

/-- Every command whose checks hold keeps agreement: the checks ask for the flags of all it reads (R71). -/
theorem effectOf {i : Instr} (hok : firstFailing (Machine.checksOf cfg i s) = none) :
    AgreeOnSpecified (effectOf cfg i s) (effectOf cfg i s') := by
  cases i <;> simp only [Machine.checksOf, readChecks, tFineChecks, firstFailing_cons_eq_none] at hok
  case rdu16 addr => obtain ⟨hrb, -⟩ := hok; exact h.rdu16 hrb
  case rds16 addr => obtain ⟨hrb, -⟩ := hok; exact h.rds16 hrb
  case ldcal => obtain ⟨hrb, -⟩ := hok; exact h.ldcal hrb
  case unpack => obtain ⟨hrb, -⟩ := hok; exact h.unpack hrb
  case compt => obtain ⟨hcal, hraw, -⟩ := hok; exact h.compt hcal hraw
  case compp => obtain ⟨hcal, hraw, htf, -⟩ := hok; exact h.compp hcal hraw htf
  case comph => obtain ⟨hcal, hraw, htf, -⟩ := hok; exact h.comph hcal hraw htf
  case sample => obtain ⟨hrb, hcal, -⟩ := hok; exact h.sample hrb hcal

theorem exec {i : Instr} {t : State} (hexec : exec i s = .next t) :
    ∃ t', Machine.exec i s' = .next t' ∧ AgreeOnSpecified t t' := by
  obtain ⟨c, hfail, rfl⟩ | ⟨hok, rfl⟩ := exec_cases hexec
  · exact ⟨_, exec_fault (h.checksOf config i ▸ hfail), h.raiseFault c⟩
  · exact ⟨_, exec_ok (h.checksOf config i ▸ hok), (h.effectOf hok).answer _⟩

end Effects

end AgreeOnSpecified

/-- Settles O52: both states take the same action, and each of the host's moves keeps agreement. -/
theorem unspecifiedValuesAreNeverObserved : Obligations.UnspecifiedValuesAreNeverObserved := by
  intro s s' t h hstep
  obtain ⟨hnil, rfl⟩ | ⟨a, rest, hact, hmove⟩ := step_cases hstep
  · exact ⟨s', step_idle (h.actions.symm.trans hnil), h⟩
  have htaken := h.withActions rest
  rw [step_action (h.actions.symm.trans hact)]
  obtain ⟨rfl, rfl⟩ | ⟨bytes, rfl, rfl⟩ | ⟨idx, rfl, rfl⟩ | ⟨w, i, rfl, hdec, hexec⟩ | ⟨w, e, rfl, hdec, rfl⟩ := hmove
  · exact ⟨_, rfl, htaken.hostReset ▸ .refl _⟩
  · exact ⟨_, rfl, htaken.hostLoad bytes⟩
  · exact ⟨_, rfl, htaken.hostRead idx⟩
  · rw [runAction, runWord, hdec]
    exact htaken.exec hexec
  · rw [runAction, runWord, hdec]
    exact ⟨_, rfl, htaken.raiseFault .illegalCmd⟩

end Sys2Proof.Claims
end

section
/-! PROOFS. Reset and hazards (spec/70_reset_and_hazards.md R86 to R88, R95 to R97): the state after a reset, the order of
COMPP and COMPH, and `T_FINE` after a new sample. -/

namespace Sys2Proof.Machine

open Sys2Proof.Claims

/-! ### Reset -/

/-- Settles O46: the state right after a reset, which has no host side of its own. -/
theorem resetMeetsTheInvariant : Obligations.ResetMeetsTheInvariant := hostReset_inv State.reset

theorem step_of_reset {s : State} {rest : List HostAction} (hact : s.actions = .reset :: rest) :
    step s = .next (hostReset { s with actions := rest }) :=
  step_action hact

theorem hostReset_regValid (s : State) {r : Reg} (hr : r ≠ .status) : (hostReset s).regValid r = false := by
  obtain ⟨f, hf⟩ := exists_validFlag hr
  rw [regValid_eq_flag _ hf, hostReset_flag]

/-- Settles O41: the state after the step is the one `@RESET` gives. -/
theorem resetInvalidatesEverything : Obligations.ResetInvalidatesEverything := fun _ _ hact =>
  ⟨_, step_of_reset hact, hostReset_status _, fun _ => hostReset_regValid _, Memory.read_nil, rfl⟩

/-- With no flag set, the first check of every command's list that asks for a flag fails (R88). -/
theorem firstFault_hostReset (i : Instr) (s : State) :
    firstFault i (hostReset s) =
      some (if i = .compt ∨ i = .compp ∨ i = .comph then .noCal else .bufferInvalid) := by
  cases i <;> simp [firstFault, hostReset_flag]

/-- Settles O15: the second step runs the command on the state after the reset. -/
theorem commandsFaultRightAfterReset : Obligations.CommandsFaultRightAfterReset := by
  intro s i rest hwf hact
  set t := hostReset { s with actions := .command (encode i) :: rest }
  have hcommand : step t = exec i { t with actions := rest } :=
    stepRunsTheDecodedCommand t (encode i) rest i rfl (decodeOfEncodeIsTheCommand i hwf)
  obtain ⟨u, hexec, hout⟩ := exec_response i { t with actions := rest }
  rw [firstFault_withActions, firstFault_hostReset] at hout
  exact ⟨t, u, step_of_reset hact, hcommand.trans hexec, hout⟩

/-! ### COMPP and COMPH in either order (R89, R96) -/

/-- Neither effect writes what the other reads or writes. -/
theorem comphEffect_comppEffect (cfg : Config) (s : State) :
    comphEffect cfg (comppEffect cfg s) = comppEffect cfg (comphEffect cfg s) := by
  apply State.ext_fields
  case hflag => intro f; cases f <;> simp
  all_goals simp

/-- Settles O31: each command leaves the other's checks as they are, and the effects commute. -/
theorem pressureAndHumidityCommute : Obligations.PressureAndHumidityCommute := by
  intro s hcal hraw htf
  have hcompp : firstFault .compp s = none := by simp [firstFault, hcal, hraw, htf]
  have hcomph : firstFault .comph s = none := hcompp
  have hcomph_after : firstFault .comph (effectOf config .compp s) = none := by
    simp [firstFault, effectOf, hcal, hraw, htf]
  have hcompp_after : firstFault .compp (effectOf config .comph s) = none := by
    simp [firstFault, effectOf, hcal, hraw, htf]
  have hcommute : effectOf config .compp (effectOf config .comph s) = effectOf config .comph (effectOf config .compp s) :=
    (comphEffect_comppEffect config s).symm
  have hend := exec_responded hcompp_after
  rw [hcommute] at hend
  exact ⟨_, _, _, exec_of_no_firstFault hcompp, exec_responded hcomph_after, exec_of_no_firstFault hcomph, hend⟩

/-! ### `T_FINE` after a new sample (R96, R97) -/

/-- A command that sets `TF_VALID` is COMPT or SAMPLE: UNPACK, which writes the flag too, clears it. -/
theorem exec_tfValid {i : Instr} {s t : State} (h : exec i s = .next t) (hs : s.flag .tfValid = false)
    (hi : i ≠ .compt ∧ i ≠ .sample) : t.flag .tfValid = false := by
  obtain ⟨c, -, rfl⟩ | ⟨-, rfl⟩ := exec_cases h
  · exact (raiseFault_flag c s .tfValid).trans hs
  · cases i with
    | compt => exact absurd rfl hi.1
    | sample => exact absurd rfl hi.2
    | unpack => exact unpackEffect_flag config s .tfValid
    | _ => exact (effectOf_flag config s (by simp [writtenFlags])).trans hs

/-- COMPP and COMPH fault without `TF_VALID`, with its own code where the checks before it hold (R71). -/
theorem firstFault_of_no_tFine {i : Instr} {s : State} (hi : i = .compp ∨ i = .comph) (htf : s.flag .tfValid = false) :
    ∃ c, firstFault i s = some c ∧ (s.flag .calValid = true → s.flag .rawValid = true → c = .noTFine) := by
  have heq : firstFault i s = firstFault .compp s := by obtain rfl | rfl := hi <;> rfl
  rw [heq]
  cases hcal : s.flag .calValid with
  | false => exact ⟨.noCal, if_pos hcal, fun h => by cases h⟩
  | true =>
    cases hraw : s.flag .rawValid with
    | false => exact ⟨.noRaw, by simp [firstFault, hcal, hraw], fun _ h => by cases h⟩
    | true => exact ⟨.noTFine, by simp [firstFault, hcal, hraw, htf], fun _ _ => rfl⟩

theorem exec_faults_of_no_tFine {i : Instr} {s t : State} (hi : i = .compp ∨ i = .comph) (h : exec i s = .next t)
    (htf : s.flag .tfValid = false) :
    ∃ c, t.output = some (.response (.fault c)) ∧
      (s.flag .calValid = true → s.flag .rawValid = true → c = .noTFine) := by
  obtain ⟨c, hfault, hc⟩ := firstFault_of_no_tFine hi htf
  rw [exec_of_firstFault hfault] at h
  cases h
  exact ⟨c, rfl, hc⟩

/-- Only a command word sets `TF_VALID`, and only one of COMPT or SAMPLE. -/
theorem step_tfValid {s t : State} (h : step s = .next t) (hs : s.flag .tfValid = false)
    (hwords : ∀ w rest, s.actions = .command w :: rest → decode w ≠ .ok .compt ∧ decode w ≠ .ok .sample) :
    t.flag .tfValid = false := by
  obtain ⟨-, rfl⟩ | ⟨a, rest, hact, hmove⟩ := step_cases h
  · exact hs
  obtain ⟨-, rfl⟩ | ⟨bytes, -, rfl⟩ | ⟨idx, -, rfl⟩ | ⟨w, i, rfl, hdec, hexec⟩ | ⟨w, e, -, -, rfl⟩ := hmove
  · exact hostReset_flag _ _
  · exact (hostLoad_flag bytes _ (by decide)).trans hs
  · obtain ⟨w, n, hread⟩ := hostRead_cases idx { s with actions := rest }
    rw [hread]
    exact hs
  · obtain ⟨hcompt, hsample⟩ := hwords w rest hact
    exact exec_tfValid hexec hs ⟨fun hi => hcompt (hi ▸ hdec), fun hi => hsample (hi ▸ hdec)⟩
  · exact (raiseFault_flag _ _ _).trans hs

/-- Settles O40: UNPACK clears `TF_VALID` and the flags of the outputs; no other move sets it, and COMPP and COMPH ask for
it. -/
theorem newSampleInvalidatesTFine : Obligations.NewSampleInvalidatesTFine := by
  refine ⟨fun s hrb hcal => ?_, fun s t h hs hwords => step_tfValid h hs hwords,
    fun s t i hi h htf => exec_faults_of_no_tFine hi h htf⟩
  have hunpack : firstFault .unpack s = none := by simp [firstFault, hrb]
  have hcompp : firstFault .compp (effectOf config .unpack s) = some .noTFine := by
    simp [firstFault, effectOf, Flag.ofSample, hcal]
  have hcomph : firstFault .comph (effectOf config .unpack s) = some .noTFine := hcompp
  have hcleared : ∀ f ∈ [Flag.tValid, .pValid, .hValid, .tfValid], (unpackEffect config s).flag f = false := by
    simp [Flag.ofSample]
  exact ⟨responded (effectOf config .unpack s), _, _, exec_of_no_firstFault hunpack, exec_of_firstFault hcompp,
    exec_of_firstFault hcomph, rfl, rfl, hcleared _ (by decide), hcleared _ (by decide), hcleared _ (by decide),
    hcleared _ (by decide)⟩

end Sys2Proof.Machine
end
